-- ==== Sys2Proof/Word.lean ====
section
/-! DEFINITION. The element and word types of the block (spec/20_memory.md R29, spec/30_encoding.md R39).

A frame is a list of bytes. Inside the block a vector holds ELEMENTS, not bytes (R29): bits are `Bool`, trits are
`Trit`. Element 0 of a vector is the head of the list (spec/00_scope.md R9, spec/20_memory.md R30). -/

namespace Sys2Proof

/-- One byte of a command frame, a response or an output record (R39 `u8`). -/
abbrev Byte := BitVec 8

/-- A 16-bit frame field (R39 `u16`). -/
abbrev Word16 := BitVec 16

/-- A 32-bit frame field, the descrambler register and the scrambling code (R39 `u32`, R60). -/
abbrev Word32 := BitVec 32

/-- A bit vector: element 0 first (R9). -/
abbrev Bits := List Bool

/-- A trit: a received bit, or the erasure marker of the depuncturer, byte value 2 (R9, R29). -/
inductive Trit where
  | zero
  | one
  | erased
  deriving DecidableEq, Repr

/-- A vector of trits: element 0 first. -/
abbrev Trits := List Trit

end Sys2Proof
end

