-- ==== Sys2Proof/Syntax.lean ====
section
/-! DEFINITION. The commands of the block: one constructor per row of spec/opcode_table.json, the operands of
spec/30_encoding.md R41 in frame order.

A vector operand is held as the bytes of the frame, one element a byte (spec/20_memory.md R29): a byte outside the
element's value set is a fault of the command (BAD_ELEMENT), not of the frame, so the frame decoder keeps it. A length
field `n` that only counts the vector behind it is not a separate operand (R45); DEINTERLEAVE's `K` is one. -/

namespace Sys2Proof

inductive Instr where
  /-- 0x01 `RX_SYMBOL sym` -/
  | rxSymbol (sym : Byte)
  /-- 0x02 `EOS` -/
  | eos
  /-- 0x03 `TDMA_INC` -/
  | tdmaInc
  /-- 0x10 `DESCRAMBLE seed, d` -/
  | descramble (seed : Word32) (d : List Byte)
  /-- 0x11 `DEINTERLEAVE K, a, d` -/
  | deinterleave (k a : Word16) (d : List Byte)
  /-- 0x12 `DEPUNCTURE23 d` -/
  | depuncture23 (d : List Byte)
  /-- 0x13 `VITERBI d` -/
  | viterbi (d : List Byte)
  /-- 0x14 `RM_DECODE d` -/
  | rmDecode (d : List Byte)
  /-- 0x15 `CRC16_CHECK len, d` -/
  | crc16Check (len : Word16) (d : List Byte)
  /-- 0x20 `CLASSIFY d` -/
  | classify (d : List Byte)
  /-- 0x21 `SPLIT type, d` -/
  | split (ty : Byte) (d : List Byte)
  /-- 0x30 `WR_CELL cc, mcc, mnc` -/
  | wrCell (cc : Byte) (mcc mnc : Word16)
  /-- 0x31 `WR_TIME tn, fn, mn` -/
  | wrTime (tn fn mn : Byte)
  /-- 0x32 `WR_USAGE usage, marker` -/
  | wrUsage (usage marker : Byte)
  /-- 0x33 `WR_STOLEN2 flag` -/
  | wrStolen2 (flag : Byte)
  /-- 0x34 `WR_FREQ freq` -/
  | wrFreq (freq : Word32)
  /-- 0x35 `WR_LCH lch` -/
  | wrLch (lch : Byte)
  /-- 0x3F `RD_STATE` -/
  | rdState
  /-- 0x40 `RESET` -/
  | reset
  deriving DecidableEq, Repr

/-- The command a frame's first byte selects (R41), without its operands. -/
inductive Opcode where
  | rxSymbol | eos | tdmaInc
  | descramble | deinterleave | depuncture23 | viterbi | rmDecode | crc16Check
  | classify | split
  | wrCell | wrTime | wrUsage | wrStolen2 | wrFreq | wrLch
  | rdState | reset
  deriving DecidableEq, Repr

end Sys2Proof
end

