-- ==== Sys2Proof/WellFormed.lean ====
section
/-! DEFINITION. When an instruction is one a command frame can carry: its vector has the length its frame layout fixes
(spec/30_encoding.md R40, R41; spec/20_memory.md R34). Element values are not part of it: a bad element is a fault of the
command (BAD_ELEMENT), with a frame of its own. -/

namespace Sys2Proof

/-- A vector whose length fits the u16 length field before it (R39, P_VEC_MAX). -/
def vecFits (d : List Byte) : Bool := decide (d.length ≤ 65535)

/-- The lengths of R41: `VEC(n)` with a u16 `n`, `VEC(K)`, `VEC(30)`, `VEC(510)`. -/
def Instr.wf : Instr → Bool
  | .rxSymbol _ => true
  | .eos => true
  | .tdmaInc => true
  | .descramble _ d => vecFits d
  | .deinterleave k _ d => d.length == k.toNat
  | .depuncture23 d => vecFits d
  | .viterbi d => vecFits d
  | .rmDecode d => d.length == 30
  | .crc16Check _ d => vecFits d
  | .classify d => d.length == 510
  | .split _ d => d.length == 510
  | .wrCell _ _ _ => true
  | .wrTime _ _ _ => true
  | .wrUsage _ _ => true
  | .wrStolen2 _ => true
  | .wrFreq _ => true
  | .wrLch _ => true
  | .rdState => true
  | .reset => true

end Sys2Proof
end

