-- ==== Sys2Proof/Decode.lean ====
section
/-! DEFINITION. The frame decoder and the encoder (spec/30_encoding.md R38 to R41, R44).

`decodeFrame` is total on any bytes. It splits off one frame: a command with its operands, a reserved opcode (a frame of
one byte, R44), or an incomplete frame (R40). Multi-byte fields are big-endian (spec/20_memory.md R31). -/

namespace Sys2Proof

/-! ## The opcode map (R41) -/

/-- The opcode byte of each command (R41). -/
def Opcode.code : Opcode → Byte
  | .rxSymbol => 0x01
  | .eos => 0x02
  | .tdmaInc => 0x03
  | .descramble => 0x10
  | .deinterleave => 0x11
  | .depuncture23 => 0x12
  | .viterbi => 0x13
  | .rmDecode => 0x14
  | .crc16Check => 0x15
  | .classify => 0x20
  | .split => 0x21
  | .wrCell => 0x30
  | .wrTime => 0x31
  | .wrUsage => 0x32
  | .wrStolen2 => 0x33
  | .wrFreq => 0x34
  | .wrLch => 0x35
  | .rdState => 0x3F
  | .reset => 0x40

/-- The nineteen commands, in the order of the table. -/
def Opcode.all : List Opcode :=
  [.rxSymbol, .eos, .tdmaInc, .descramble, .deinterleave, .depuncture23, .viterbi, .rmDecode, .crc16Check,
   .classify, .split, .wrCell, .wrTime, .wrUsage, .wrStolen2, .wrFreq, .wrLch, .rdState, .reset]

/-- The command a byte selects; `none` for a reserved opcode (R44). -/
def Opcode.ofByte (b : Byte) : Option Opcode := Opcode.all.find? fun o => o.code == b

/-! ## Big-endian fields (R31, R39) -/

/-- The two bytes of a u16, most significant first. -/
def u16Bytes (w : Word16) : List Byte := [w.extractLsb' 8 8, w.extractLsb' 0 8]

/-- The four bytes of a u32, most significant first. -/
def u32Bytes (w : Word32) : List Byte :=
  [w.extractLsb' 24 8, w.extractLsb' 16 8, w.extractLsb' 8 8, w.extractLsb' 0 8]

/-- A u16 from its bytes. -/
def u16Join (hi lo : Byte) : Word16 := hi ++ lo

/-- A u32 from its bytes. -/
def u32Join (b3 b2 b1 b0 : Byte) : Word32 := (b3 ++ b2 ++ (b1 ++ b0) : BitVec (8 + 8 + (8 + 8)))

/-! ## Reading fields off the front of the byte stream: `none` where the stream ends first -/

/-- One u8 field. -/
def takeU8 : List Byte → Option (Byte × List Byte)
  | b :: rest => some (b, rest)
  | [] => none

/-- One u16 field. -/
def takeU16 : List Byte → Option (Word16 × List Byte)
  | hi :: lo :: rest => some (u16Join hi lo, rest)
  | _ => none

/-- One u32 field. -/
def takeU32 : List Byte → Option (Word32 × List Byte)
  | b3 :: b2 :: b1 :: b0 :: rest => some (u32Join b3 b2 b1 b0, rest)
  | _ => none

/-- A `VEC(n)` field: n bytes. -/
def takeVec : Nat → List Byte → Option (List Byte × List Byte)
  | 0, l => some ([], l)
  | _ + 1, [] => none
  | n + 1, b :: l =>
    match takeVec n l with
    | some (v, rest) => some (b :: v, rest)
    | none => none

/-- A u16 length field and the vector it counts. -/
def takeCountedVec (l : List Byte) : Option (List Byte × List Byte) :=
  (takeU16 l).bind fun (n, l) => takeVec n.toNat l

/-- The operand fields of a command, in the order of R41; `none` where the stream ends inside them. -/
def decodeOperands : Opcode → List Byte → Option (Instr × List Byte)
  | .rxSymbol, l => (takeU8 l).map fun (sym, l) => (.rxSymbol sym, l)
  | .eos, l => some (.eos, l)
  | .tdmaInc, l => some (.tdmaInc, l)
  | .descramble, l =>
    (takeU32 l).bind fun (seed, l) => (takeCountedVec l).map fun (d, l) => (.descramble seed d, l)
  | .deinterleave, l =>
    (takeU16 l).bind fun (k, l) => (takeU16 l).bind fun (a, l) =>
      (takeVec k.toNat l).map fun (d, l) => (.deinterleave k a d, l)
  | .depuncture23, l => (takeCountedVec l).map fun (d, l) => (.depuncture23 d, l)
  | .viterbi, l => (takeCountedVec l).map fun (d, l) => (.viterbi d, l)
  | .rmDecode, l => (takeVec 30 l).map fun (d, l) => (.rmDecode d, l)
  | .crc16Check, l =>
    (takeU16 l).bind fun (len, l) => (takeCountedVec l).map fun (d, l) => (.crc16Check len d, l)
  | .classify, l => (takeVec 510 l).map fun (d, l) => (.classify d, l)
  | .split, l => (takeU8 l).bind fun (ty, l) => (takeVec 510 l).map fun (d, l) => (.split ty d, l)
  | .wrCell, l =>
    (takeU8 l).bind fun (cc, l) => (takeU16 l).bind fun (mcc, l) => (takeU16 l).map fun (mnc, l) =>
      (.wrCell cc mcc mnc, l)
  | .wrTime, l =>
    (takeU8 l).bind fun (tn, l) => (takeU8 l).bind fun (fn, l) => (takeU8 l).map fun (mn, l) =>
      (.wrTime tn fn mn, l)
  | .wrUsage, l => (takeU8 l).bind fun (usage, l) => (takeU8 l).map fun (marker, l) => (.wrUsage usage marker, l)
  | .wrStolen2, l => (takeU8 l).map fun (flag, l) => (.wrStolen2 flag, l)
  | .wrFreq, l => (takeU32 l).map fun (freq, l) => (.wrFreq freq, l)
  | .wrLch, l => (takeU8 l).map fun (lch, l) => (.wrLch lch, l)
  | .rdState, l => some (.rdState, l)
  | .reset, l => some (.reset, l)

/-- What stands at the front of the byte stream. -/
inductive Frame where
  /-- A whole command frame, and the bytes after it. -/
  | command (i : Instr) (rest : List Byte)
  /-- A frame of one byte: its opcode is reserved (R44). -/
  | reservedOpcode (op : Byte) (rest : List Byte)
  /-- The stream ends before the frame does (R40), or is empty. -/
  | incomplete
  deriving DecidableEq, Repr

/-- Length decoding and field decoding (R40): "The opcode byte alone fixes the layout". -/
def decodeFrame : List Byte → Frame
  | [] => .incomplete
  | op :: l =>
    match Opcode.ofByte op with
    | none => .reservedOpcode op l
    | some o =>
      match decodeOperands o l with
      | some (i, rest) => .command i rest
      | none => .incomplete

/-! ## The encoder -/

/-- The opcode of an instruction. -/
def Instr.opcode : Instr → Opcode
  | .rxSymbol _ => .rxSymbol
  | .eos => .eos
  | .tdmaInc => .tdmaInc
  | .descramble _ _ => .descramble
  | .deinterleave _ _ _ => .deinterleave
  | .depuncture23 _ => .depuncture23
  | .viterbi _ => .viterbi
  | .rmDecode _ => .rmDecode
  | .crc16Check _ _ => .crc16Check
  | .classify _ => .classify
  | .split _ _ => .split
  | .wrCell _ _ _ => .wrCell
  | .wrTime _ _ _ => .wrTime
  | .wrUsage _ _ => .wrUsage
  | .wrStolen2 _ => .wrStolen2
  | .wrFreq _ => .wrFreq
  | .wrLch _ => .wrLch
  | .rdState => .rdState
  | .reset => .reset

/-- A vector with its u16 length field before it. -/
def countedVec (d : List Byte) : List Byte := u16Bytes (BitVec.ofNat 16 d.length) ++ d

/-- The operand fields after the opcode byte, in the order of R41. -/
def Instr.operandBytes : Instr → List Byte
  | .rxSymbol sym => [sym]
  | .eos => []
  | .tdmaInc => []
  | .descramble seed d => u32Bytes seed ++ countedVec d
  | .deinterleave k a d => u16Bytes k ++ (u16Bytes a ++ d)
  | .depuncture23 d => countedVec d
  | .viterbi d => countedVec d
  | .rmDecode d => d
  | .crc16Check len d => u16Bytes len ++ countedVec d
  | .classify d => d
  | .split ty d => ty :: d
  | .wrCell cc mcc mnc => cc :: (u16Bytes mcc ++ u16Bytes mnc)
  | .wrTime tn fn mn => [tn, fn, mn]
  | .wrUsage usage marker => [usage, marker]
  | .wrStolen2 flag => [flag]
  | .wrFreq freq => u32Bytes freq
  | .wrLch lch => [lch]
  | .rdState => []
  | .reset => []

/-- The command frame of an instruction: "one opcode byte followed by the operand fields of that opcode" (R38). -/
def encode (i : Instr) : List Byte := i.opcode.code :: i.operandBytes

/-! ## Frame length (R40) and the host's table words -/

/-- The u16 that stands at byte `k` of a frame (bytes the list does not hold read as 0). -/
def u16At (frame : List Byte) (k : Nat) : Nat := (u16Join (frame.getD k 0) (frame.getD (k + 1) 0)).toNat

/-- The length of a frame, from its opcode byte and its length field: the column "frame length" of R41. -/
def frameLength (frame : List Byte) : Nat :=
  match Opcode.ofByte (frame.getD 0 0) with
  | none => 1
  | some .rxSymbol => 2
  | some .eos => 1
  | some .tdmaInc => 1
  | some .descramble => 7 + u16At frame 5
  | some .deinterleave => 5 + u16At frame 1
  | some .depuncture23 => 3 + u16At frame 1
  | some .viterbi => 3 + u16At frame 1
  | some .rmDecode => 31
  | some .crc16Check => 5 + u16At frame 3
  | some .classify => 511
  | some .split => 512
  | some .wrCell => 6
  | some .wrTime => 4
  | some .wrUsage => 3
  | some .wrStolen2 => 2
  | some .wrFreq => 5
  | some .wrLch => 2
  | some .rdState => 1
  | some .reset => 1

/-- The first `n` bytes of a table word: bit 0 is the least significant bit of the first byte. -/
def tableBytes (n w : Nat) : List Byte := (List.range n).map fun k => BitVec.ofNat 8 (w >>> (8 * k))

/-- The frame a table word stands for: its bytes, then zero bytes up to the frame's length. -/
def tableFrame (nbits w : Nat) : List Byte :=
  let bytes := tableBytes ((nbits + 7) / 8) w
  bytes ++ List.replicate (frameLength bytes - bytes.length) 0

/-- The instruction this decoder reads from a table word. -/
def decodeTableWord (nbits w : Nat) : Option Instr :=
  match decodeFrame (tableFrame nbits w) with
  | .command i _ => some i
  | .reservedOpcode _ _ => none
  | .incomplete => none

end Sys2Proof
end

