-- ==== Sys2Proof/Config.lean ====
section
/-! DEFINITION. What an instance of the block fixes: the types of the OPEN parameters of spec/00_scope.md R6, and the
free values (opaque constants without a body).

R6: "A model takes every row whose status is `OPEN` as an argument". The machine's interface is `step : State → …`, so
the argument is the field `State.params` (notes/assumptions/1.md): plain data that no step changes. The default values
of the rows, and the fixed rows, are in Machine/Parameters.lean. -/

namespace Sys2Proof

/-- P_COUNTDOWN: where the resynchronization counter is decremented (spec/40_sync.md R51). -/
inductive Countdown where
  | literal
  | perSymbol
  deriving DecidableEq, Repr

/-- P_SB_BKN2_CH: the channel of the SB's BKN2 (spec/42_splitter.md R81). -/
inductive SbBkn2Channel where
  | schHd
  | bnch
  deriving DecidableEq, Repr

/-- P_SF_UNSTOLEN: the unstolen second half of an NDB_SF in traffic mode (R83). -/
inductive SfUnstolen where
  | drop
  | tchHalf
  deriving DecidableEq, Repr

/-- P_VIT_TIE, one rule for the survivor tie and one for the end tie (spec/41_primitives.md R68). `smaller` is the
default. `other` stands for "another decoder that makes different choices on exact ties": its choice is the free value
`Config.tieChoice` (notes/assumptions/3.md). -/
inductive TieRule where
  | smaller
  | larger
  | other (id : Nat)
  deriving DecidableEq, Repr

/-- P_ENV: the environment function (spec/43_host.md R95). `null` is ENV_NULL, `ref` is ENV_REF (R96), and `other` is
any other environment: the free value `Config.otherEnv` of Machine/Ops.lean (notes/assumptions/2.md). -/
inductive EnvParam where
  | null
  | ref
  | other (id : Nat)
  deriving DecidableEq, Repr

/-- P_CONV_G: the four generators as tap vectors over (u(t), …, u(t−4)), u(t) the most significant bit (R67). -/
structure Generators where
  g1 : BitVec 5
  g2 : BitVec 5
  g3 : BitVec 5
  g4 : BitVec 5
  deriving DecidableEq, Repr

/-- P_LAYOUT: where each block lies in a 510-bit burst (spec/42_splitter.md R74). A block is the concatenation of the
slices `b[start..stop)` listed for it. -/
structure Layout where
  sbBkn1 : List (Nat × Nat)
  sbBbk  : List (Nat × Nat)
  sbBkn2 : List (Nat × Nat)
  ndBkn1 : List (Nat × Nat)
  ndBbk  : List (Nat × Nat)
  ndBkn2 : List (Nat × Nat)
  deriving DecidableEq, Repr

/-- The OPEN rows of R6, one field each (P_VIT_TIE is two). Plain data. -/
structure Params where
  /-- P_TS_BEGIN -/
  tsBegin : Bits
  /-- P_TS_END -/
  tsEnd : Bits
  /-- P_TS_SYNC -/
  tsSync : Bits
  /-- P_TS_NORM1, selects NDB -/
  tsNorm1 : Bits
  /-- P_TS_NORM2, selects NDB_SF -/
  tsNorm2 : Bits
  /-- P_LFSR_TAPS, numbered as in R60 -/
  lfsrTaps : List Nat
  /-- P_DEINT_OFFSET -/
  deintOffset : Nat
  /-- P_KA_HALF, K -/
  halfK : Nat
  /-- P_KA_HALF, a -/
  halfA : Nat
  /-- P_KA_FULL, K -/
  fullK : Nat
  /-- P_KA_FULL, a -/
  fullA : Nat
  /-- P_PUNCT_KEEP, its three positions in ascending order k0, k1, k2 (R65) -/
  keep0 : Nat
  keep1 : Nat
  keep2 : Nat
  /-- P_CONV_G -/
  convG : Generators
  /-- P_VIT_TIE, between survivors -/
  survivorTie : TieRule
  /-- P_VIT_TIE, between end states -/
  endTie : TieRule
  /-- P_CRC_LEN_HALF -/
  halfCrcLen : Nat
  /-- P_INFO_LEN_HALF -/
  halfInfoLen : Nat
  /-- P_CRC_LEN_FULL -/
  fullCrcLen : Nat
  /-- P_INFO_LEN_FULL -/
  fullInfoLen : Nat
  /-- P_LAYOUT -/
  layout : Layout
  /-- P_COUNTDOWN -/
  countdown : Countdown
  /-- P_COAST_TIME -/
  coastTime : Bool
  /-- P_SB_BKN2_CH -/
  sbBkn2Ch : SbBkn2Channel
  /-- P_SF_UNSTOLEN -/
  sfUnstolen : SfUnstolen
  /-- P_SOFT_ONE, an i8 -/
  softOne : Byte
  /-- P_SOFT_ZERO, an i8 -/
  softZero : Byte
  /-- P_ENV -/
  env : EnvParam
  deriving DecidableEq, Repr

/-- FREE VALUE (notes/assumptions/3.md): the choice a decoder with tie rule `other id` makes among tied candidates, for
the received vector, the trellis step and the state at which the tie stands. No body: nothing can evaluate it. -/
opaque Config.tieChoice : (id : Nat) → (received : Trits) → (step : Nat) → (state : Nat) → Nat

end Sys2Proof
end

