-- ==== Sys2Proof/Machine/Parameters.lean ====
section
/-! DEFINITION. The values of spec/00_scope.md R6: the fixed rows as constants, the listed defaults of the OPEN rows as
`Params.default`, and the condition `Params.valid` under which the model takes a parameter instance (R7, R8 and the
shape conditions of notes/assumptions/7.md). -/

namespace Sys2Proof

namespace Config

/-- P_FRAME_LEN. -/
def frameLen : Nat := 510
/-- P_RESYNC_FRAMES. -/
def resyncFrames : Nat := 50
/-- P_RESYNC_INIT = P_FRAME_LEN × P_RESYNC_FRAMES = 25500. -/
def resyncInit : Nat := frameLen * resyncFrames
/-- P_OFF_BEGIN. -/
def offBegin : Nat := 0
/-- P_OFF_END. -/
def offEnd : Nat := 500
/-- P_OFF_SYNC. -/
def offSync : Nat := 214
/-- P_OFF_NORM. -/
def offNorm : Nat := 244
/-- P_BEGIN_MAX: the begin score must equal 0. -/
def beginMax : Nat := 0
/-- P_END_LIMIT: the end score must be below 2. -/
def endLimit : Nat := 2
/-- P_INVALID_ABOVE: a winning score above 5 invalidates. -/
def invalidAbove : Nat := 5
/-- P_SYNC_SEED. -/
def syncSeed : Word32 := 0x00000003
/-- P_KA_BSCH, K. -/
def bschK : Nat := 120
/-- P_KA_BSCH, a. -/
def bschA : Nat := 11
/-- P_CRC_LEN_BSCH. -/
def bschCrcLen : Nat := 76
/-- P_INFO_LEN_BSCH. -/
def bschInfoLen : Nat := 60
/-- P_PUNCT_PERIOD. -/
def punctPeriod : Nat := 8
/-- P_RM_N, the Reed-Muller code length. -/
def rmN : Nat := 30
/-- P_RM_K, its information length. -/
def rmK : Nat := 14
/-- P_CRC_POLY. -/
def crcPoly : Word16 := 0x1021
/-- P_CRC_INIT. -/
def crcInit : Word16 := 0xFFFF
/-- P_CRC_RESIDUE. -/
def crcResidue : Word16 := 0x1D0F
/-- P_TCH_SEGMENTS and the offsets of spec/42_splitter.md R84: the four slices of the 432-bit traffic buffer. -/
def tchSegment : Nat := 114
/-- The length of the traffic buffer, 114 + 114 + 114 + 90. -/
def tchLen : Nat := 432
/-- P_TCH_DESCRAMBLE. -/
def tchDescramble : Bool := true
/-- P_VEC_MAX: elements per vector operand. -/
def vecMax : Nat := 65535

end Config

/-- The vector of `n` bits written as a number, element 0 its most significant bit (R9, R30). -/
def bitsMsb (n value : Nat) : Bits := (List.range n).map fun i => value.testBit (n - 1 - i)

/-- The number of elements a list of slices extracts from a long enough vector. -/
def slicesLen (rs : List (Nat × Nat)) : Nat := (rs.map fun r => r.2 - r.1).sum

/-- Every slice lies in a burst. -/
def slicesFit (rs : List (Nat × Nat)) : Bool := rs.all fun r => decide (r.1 ≤ r.2) && decide (r.2 ≤ Config.frameLen)

/-- The listed defaults of the OPEN rows of R6, with P_ENV = ENV_NULL, the environment of the vectors of
spec/95_test_vectors.md (R95). -/
def Params.default : Params where
  tsBegin := bitsMsb 12 0b000110101101
  tsEnd := bitsMsb 10 0b1011011100
  tsSync := bitsMsb 38 0b11000001100111001110100111000001100111
  tsNorm1 := bitsMsb 22 0b1101000011101001110100
  tsNorm2 := bitsMsb 22 0b0111101001000011011110
  lfsrTaps := [32, 26, 23, 22, 16, 12, 11, 10, 8, 7, 5, 4, 2, 1]
  deintOffset := 0
  halfK := 216
  halfA := 101
  fullK := 432
  fullA := 103
  keep0 := 0
  keep1 := 1
  keep2 := 4
  convG := ⟨0b11001, 0b10111, 0b11101, 0b11011⟩
  survivorTie := .smaller
  endTie := .smaller
  halfCrcLen := 140
  halfInfoLen := 124
  fullCrcLen := 284
  fullInfoLen := 268
  layout :=
    { sbBkn1 := [(94, 214)]
      sbBbk := [(252, 282)]
      sbBkn2 := [(282, 498)]
      ndBkn1 := [(14, 230)]
      ndBbk := [(230, 244), (266, 282)]
      ndBkn2 := [(282, 498)] }
  countdown := .literal
  coastTime := true
  sbBkn2Ch := .schHd
  sfUnstolen := .drop
  softOne := 0x7F
  softZero := 0x81
  env := .null

/-- R7 for one pattern: its length is in 10..38 and it fits inside the burst at its offset. -/
def patternFits (pat : Bits) (off : Nat) : Bool :=
  decide (10 ≤ pat.length) && decide (pat.length ≤ 38) && decide (off + pat.length ≤ Config.frameLen)

/-- R7: every training sequence fits. -/
def Params.patternsFit (P : Params) : Bool :=
  patternFits P.tsBegin Config.offBegin && patternFits P.tsEnd Config.offEnd &&
  patternFits P.tsSync Config.offSync && patternFits P.tsNorm1 Config.offNorm &&
  patternFits P.tsNorm2 Config.offNorm

/-- R8, first condition: gcd(a, K) = 1 for every deinterleaver pair. -/
def Params.pairsPermute (P : Params) : Bool :=
  Nat.gcd Config.bschA Config.bschK == 1 && Nat.gcd P.halfA P.halfK == 1 && Nat.gcd P.fullA P.fullK == 1

/-- R8, second condition: P_PUNCT_KEEP holds exactly 3 distinct positions in 0..7, here in ascending order (R65). -/
def Params.keepFits (P : Params) : Bool :=
  decide (P.keep0 < P.keep1) && decide (P.keep1 < P.keep2) && decide (P.keep2 < Config.punctPeriod)

/-- R6: the tap count 14 is the source's; a tap y names register bit 32 − y for 1 ≤ y ≤ 32 (R60). -/
def Params.tapsFit (P : Params) : Bool :=
  P.lfsrTaps.length == 14 && decide P.lfsrTaps.Nodup && P.lfsrTaps.all fun y => decide (1 ≤ y) && decide (y ≤ 32)

/-- The lengths of one channel class agree with its decode chain: K is a multiple of 3 (R65), and the checked and the
information bits are among the 2K/3 Viterbi output bits (R72, R75, R77). -/
def classFits (k crcLen infoLen : Nat) : Bool :=
  k % 3 == 0 && decide (crcLen ≤ 2 * (k / 3)) && decide (infoLen ≤ 2 * (k / 3))

/-- Every channel class is well shaped. -/
def Params.classesFit (P : Params) : Bool :=
  classFits Config.bschK Config.bschCrcLen Config.bschInfoLen &&
  classFits P.halfK P.halfCrcLen P.halfInfoLen && classFits P.fullK P.fullCrcLen P.fullInfoLen

/-- The layout gives each block the length its decode chain takes (R74, R75, R70, R84). -/
def Params.layoutFits (P : Params) : Bool :=
  ([P.layout.sbBkn1, P.layout.sbBbk, P.layout.sbBkn2, P.layout.ndBkn1, P.layout.ndBbk, P.layout.ndBkn2].all slicesFit) &&
  (slicesLen P.layout.sbBkn1 == Config.bschK && (slicesLen P.layout.sbBbk == Config.rmN &&
  (slicesLen P.layout.sbBkn2 == P.halfK && (slicesLen P.layout.ndBkn1 == P.halfK &&
  (slicesLen P.layout.ndBbk == Config.rmN && (slicesLen P.layout.ndBkn2 == P.halfK &&
  (P.fullK == P.halfK + P.halfK && P.fullK == Config.tchLen)))))))

/-- The soft values are +127 and −127, one for each bit (R84: "each re-expressed as ±127 soft values"). -/
def Params.softFits (P : Params) : Bool :=
  (P.softOne == 0x7F && P.softZero == 0x81) || (P.softOne == 0x81 && P.softZero == 0x7F)

/-- The parameter instances the model takes: "A model refuses a parameter instance that breaks this" (R7, R8), and the
shape conditions without which R60, R65, R72, R77 and R84 state no result (notes/assumptions/7.md). -/
def Params.valid (P : Params) : Bool :=
  P.patternsFit && (P.pairsPermute && (P.keepFits && (P.tapsFit && (P.classesFit && (P.layoutFits && P.softFits)))))

end Sys2Proof
end

