-- ==== Sys2Proof/Machine/State.lean ====
section
/-! DEFINITION. The state of the block (spec/10_state.md R14 to R23), its ports, and the reasons a step can stop.

`Block` is R14's tuple S. `State` adds what stands around it: the bytes the host has sent to the command port
(spec/30_encoding.md R38), the responses the block has returned (spec/60_exceptions.md R99: "The response stream is part of
what a model observes"), and the parameter instance of the run (notes/assumptions/1.md). -/

namespace Sys2Proof.Machine

/-- TDMA time (R18), naturals in 1..4, 1..18 and 1..60. -/
structure Time where
  tn : Nat
  fn : Nat
  mn : Nat
  deriving DecidableEq, Repr

/-- Cell info (R19). -/
structure Cell where
  cc    : BitVec 6
  mcc   : BitVec 10
  mnc   : BitVec 14
  scode : Word32
  freq  : Word32
  deriving DecidableEq, Repr

/-- MAC channel state (R20): USAGE 1 is traffic. -/
structure Chan where
  usage  : Bool
  marker : BitVec 6
  lch    : BitVec 8
  deriving DecidableEq, Repr

/-- The logical channels of delivery records (spec/30_encoding.md R42). -/
inductive Channel where
  | aach
  | bsch
  | bnch
  | schHd
  | stch
  | schF
  | tchHalf
  deriving DecidableEq, Repr

/-- The events (R42, spec/60_exceptions.md R100). -/
inductive Event where
  | syncLost
  | burstInvalid
  | bkn2Dropped
  | envWriteRejected
  deriving DecidableEq, Repr

/-- The burst types (R42). INVALID is not one: a classification is an `Option BurstType`. -/
inductive BurstType where
  | sb
  | ndb
  | ndbSf
  deriving DecidableEq, Repr

/-- The output records (R43), in their abstract form; soft values are two's-complement i8. -/
inductive Record where
  | dlv (ch : Channel) (time : Time) (bits : Bits)
  | tch (time : Time) (s0 s1 s2 s3 : List Byte)
  | evt (code : Event) (time : Time)
  deriving DecidableEq, Repr

/-- The status of a response (spec/60_exceptions.md R97). -/
inductive Status where
  | ok
  | badOpcode
  | badLength
  | badElement
  | badParam
  | badField
  | closed
  deriving DecidableEq, Repr

/-- A response frame (R38): its status, and its payload (empty unless the status is OK). -/
structure Response where
  status  : Status
  payload : List Byte
  deriving DecidableEq, Repr

/-- The state writes of spec/43_host.md, with the operands of their frames: what a WR_ command does, and an element of the
list P_ENV returns (R95). -/
inductive Write where
  | cell (cc : Byte) (mcc mnc : Word16)
  | time (tn fn mn : Byte)
  | usage (usage marker : Byte)
  | stolen2 (flag : Byte)
  | freq (freq : Word32)
  | lch (lch : Byte)
  deriving DecidableEq, Repr

/-- R14: `S = (BUF, SYNC, CNT, TIME, CELL, CHAN, STOLEN2, CLOSED, OUTQ)`. -/
structure Block where
  /-- BUF, the burst buffer, element 0 the oldest symbol (R15). -/
  buf : Bits
  /-- SYNC, "synchronized" (R16). -/
  sync : Bool
  /-- CNT, the resynchronization counter, 0..25500 (R17). -/
  cnt : Nat
  /-- TIME (R18). -/
  time : Time
  /-- CELL (R19). -/
  cell : Cell
  /-- CHAN (R20). -/
  chan : Chan
  /-- STOLEN2, "second slot also stolen" (R21). -/
  stolen2 : Bool
  /-- CLOSED, end of stream (R22). -/
  closed : Bool
  /-- OUTQ, the records emitted, oldest first (R23). -/
  outq : List Record
  deriving DecidableEq, Repr

/-- The machine: the block, its command port, its response stream, and the parameter instance of the run. -/
structure State where
  /-- R14's tuple. -/
  block : Block
  /-- The bytes sent to the command port and not yet decoded, the next one first (R38). -/
  port : List Byte
  /-- The responses returned, oldest first: "Responses come back in command order" (R38). -/
  responses : List Response
  /-- The OPEN parameters of the run (spec/00_scope.md R6): no step changes them. -/
  params : Params
  deriving DecidableEq, Repr

/-- Why the machine has no move. Both are the `stuck` of spec/93_implementation_defined.md; both are SAFE: the model stops
where the hardware waits. -/
inductive Fault where
  /-- Raised by `step` when the command port is empty: every frame has been answered, and the run is at its end
  (spec/70_reset_and_hazards.md R113). Safe. -/
  | portEmpty
  /-- Raised by `step` when the port ends inside a frame: "the frame never executes and has no response"
  (93_implementation_defined.md U5, R40, R113). Safe. -/
  | incompleteFrame
  deriving DecidableEq, Repr

/-- What the model gives no meaning. -/
inductive Refusal where
  /-- Raised by a rejected arm of `exec`; no arm is one. Safe. -/
  | notModelled (mnemonic : String)
  /-- Raised by `step` for a parameter instance that is not `Params.valid`: "A model refuses a parameter instance that
  breaks this" (spec/00_scope.md R7, R8; notes/assumptions/7.md). Safe. -/
  | parametersRejected
  deriving DecidableEq, Repr

/-- The block at process start (R27, spec/70_reset_and_hazards.md R110). -/
def Block.initial : Block where
  buf := []
  sync := false
  cnt := 0
  time := ⟨1, 1, 1⟩
  cell := ⟨0, 0, 0, 0x00000003, 0⟩
  chan := ⟨false, 0, 0⟩
  stolen2 := false
  closed := false
  outq := []

/-- The machine at process start under parameter instance `P`: nothing received, nothing answered. -/
def State.initial (P : Params) : State where
  block := Block.initial
  port := []
  responses := []
  params := P

/-- The machine right after reset: process start under the listed defaults of R6 and ENV_NULL
(notes/assumptions/1.md). -/
def State.reset : State := State.initial Params.default

end Sys2Proof.Machine
end

