-- ==== Sys2Proof/Machine/Operands.lean ====
section
/-! DEFINITION. Operand forms and their representation: element vectors and bytes (spec/20_memory.md R29), slices
(spec/00_scope.md R9), integers read from vectors (R30), and the byte codes of enumerated values (spec/30_encoding.md R42,
spec/60_exceptions.md R97). -/

namespace Sys2Proof.Machine

/-! ## Elements (R29) -/

/-- A bit element: "Byte value 0 stands for 0, 1 for 1"; any other byte is outside the value set. -/
def bitOf (b : Byte) : Option Bool :=
  if b = 0 then some false else if b = 1 then some true else none

/-- A trit element: 2 is the erasure. -/
def tritOf (b : Byte) : Option Trit :=
  if b = 0 then some .zero else if b = 1 then some .one else if b = 2 then some .erased else none

/-- A bit vector operand; `none` where an element is outside {0, 1} (BAD_ELEMENT). -/
def bitsOf : List Byte → Option Bits
  | [] => some []
  | b :: l =>
    match bitOf b with
    | none => none
    | some x =>
      match bitsOf l with
      | none => none
      | some xs => some (x :: xs)

/-- A trit vector operand; `none` where an element is outside {0, 1, 2} (BAD_ELEMENT). -/
def tritsOf : List Byte → Option Trits
  | [] => some []
  | b :: l =>
    match tritOf b with
    | none => none
    | some x =>
      match tritsOf l with
      | none => none
      | some xs => some (x :: xs)

/-- The byte of a bit. -/
def bitByte (b : Bool) : Byte := if b then 1 else 0

/-- The byte of a trit. -/
def tritByte : Trit → Byte
  | .zero => 0
  | .one => 1
  | .erased => 2

/-- A bit as a trit. -/
def tritBit (b : Bool) : Trit := if b then .one else .zero

/-- `VEC(n)` of a bit vector. -/
def bitsBytes (v : Bits) : List Byte := v.map bitByte

/-- `VEC(n)` of a trit vector. -/
def tritsBytes (v : Trits) : List Byte := v.map tritByte

/-- A natural in a u8 field. -/
def u8Nat (n : Nat) : List Byte := [BitVec.ofNat 8 n]

/-- A natural in a big-endian u16 field (R31). -/
def u16Nat (n : Nat) : List Byte := u16Bytes (BitVec.ofNat 16 n)

/-! ## Slices and integers (R9, R30) -/

/-- `v[a..b)`: elements a through b − 1. -/
def slice (v : Bits) (a b : Nat) : Bits := (v.drop a).take (b - a)

/-- The concatenation of the slices of a block (spec/42_splitter.md R74). -/
def extract (rs : List (Nat × Nat)) (v : Bits) : Bits := rs.flatMap fun r => slice v r.1 r.2

/-- `int(v)`: "its most significant bit is the element with the smallest index" (R30). -/
def intOf (v : Bits) : Nat := v.foldl (fun acc b => 2 * acc + b.toNat) 0

/-! ## Codes of enumerated values (R42, R97) -/

/-- Burst type codes: SB 0x00, NDB 0x01, NDB_SF 0x02. -/
def BurstType.code : BurstType → Byte
  | .sb => 0x00
  | .ndb => 0x01
  | .ndbSf => 0x02

/-- The code of a classification: CLASSIFY may also return 0xFF = INVALID. -/
def classCode : Option BurstType → Byte
  | some t => t.code
  | none => 0xFF

/-- The burst type SPLIT's operand names; `none` for a type that is not 0, 1 or 2 (BAD_PARAM, R85). -/
def burstTypeOf (b : Byte) : Option BurstType :=
  if b = 0x00 then some .sb else if b = 0x01 then some .ndb else if b = 0x02 then some .ndbSf else none

/-- Logical channel codes (R42). -/
def Channel.code : Channel → Byte
  | .aach => 0x00
  | .bsch => 0x01
  | .bnch => 0x02
  | .schHd => 0x03
  | .stch => 0x04
  | .schF => 0x05
  | .tchHalf => 0x06

/-- Event codes (R42, R100). -/
def Event.code : Event → Byte
  | .syncLost => 0x01
  | .burstInvalid => 0x02
  | .bkn2Dropped => 0x03
  | .envWriteRejected => 0x04

/-- Status codes (R97). -/
def Status.code : Status → Byte
  | .ok => 0x00
  | .badOpcode => 0x01
  | .badLength => 0x02
  | .badElement => 0x03
  | .badParam => 0x04
  | .badField => 0x05
  | .closed => 0x06

/-- `tn:u8 fn:u8 mn:u8`. -/
def Time.bytes (t : Time) : List Byte := u8Nat t.tn ++ u8Nat t.fn ++ u8Nat t.mn

/-- The byte layout of an output record (R43). -/
def Record.bytes : Record → List Byte
  | .dlv ch t bits => [0xD0, ch.code] ++ t.bytes ++ countedVec (bitsBytes bits)
  | .tch t s0 s1 s2 s3 => [0xD1] ++ t.bytes ++ s0 ++ s1 ++ s2 ++ s3
  | .evt c t => [0xE0, c.code] ++ t.bytes

/-- A response frame: the status byte, then the payload (R38). -/
def Response.bytes (r : Response) : List Byte := r.status.code :: r.payload

end Sys2Proof.Machine
end

