-- ==== Sys2Proof/Machine/Flags.lean ====
section
/-! DEFINITION. The tests of the block: scores, the frame-boundary test and the classifier (spec/00_scope.md R11,
spec/40_sync.md R47, R48), and the range checks of the state writes (spec/43_host.md R88 to R93).

"The block has no condition codes and no arithmetic flags" (spec/10_state.md R24): SYNC, STOLEN2 and CLOSED are state, and
`found` is a bit of RX_SYMBOL's response. -/

namespace Sys2Proof.Machine

/-- `score(buf, pat, off)`: "the number of indices i < len(pat) with `buf[off+i] != pat[i]`" (R11). -/
def score (buf pat : Bits) (off : Nat) : Nat := ((buf.drop off).zip pat).countP fun (x, y) => x != y

/-- The frame-boundary test (R47). -/
def boundary (P : Params) (buf : Bits) : Bool :=
  score buf P.tsBegin Config.offBegin == Config.beginMax && decide (score buf P.tsEnd Config.offEnd < Config.endLimit)

/-- What the classifier returns: the type (`none` is INVALID) and the three scores. -/
structure Classification where
  type   : Option BurstType
  sSync  : Nat
  sNorm1 : Nat
  sNorm2 : Nat
  deriving DecidableEq, Repr

/-- The type by the lowest score, ties "broken by declared priority order SB > NDB > NDB_SF", and INVALID where even the
lowest score is above 5 (R48, read per spec/90_conflicts.md C4). -/
def burstTypeByScore (sSync sNorm1 sNorm2 : Nat) : Option BurstType :=
  let best := min sSync (min sNorm1 sNorm2)
  if best > Config.invalidAbove then none
  else if sSync = best then some .sb
  else if sNorm1 = best then some .ndb
  else some .ndbSf

/-- `classify(b)` (R48). -/
def classifyBurst (P : Params) (b : Bits) : Classification :=
  let sSync := score b P.tsSync Config.offSync
  let sNorm1 := score b P.tsNorm1 Config.offNorm
  let sNorm2 := score b P.tsNorm2 Config.offNorm
  ⟨burstTypeByScore sSync sNorm1 sNorm2, sSync, sNorm1, sNorm2⟩

/-- TIME's ranges (spec/10_state.md R18, spec/43_host.md R90). -/
def timeInRange (tn fn mn : Nat) : Bool :=
  decide (1 ≤ tn) && decide (tn ≤ 4) && decide (1 ≤ fn) && decide (fn ≤ 18) && decide (1 ≤ mn) && decide (mn ≤ 60)

/-- The field checks of the write commands: `false` is BAD_FIELD (R88 to R93). -/
def Write.fieldsFit : Write → Bool
  | .cell cc mcc mnc => decide (cc.toNat ≤ 63) && decide (mcc.toNat ≤ 1023) && decide (mnc.toNat ≤ 16383)
  | .time tn fn mn => timeInRange tn.toNat fn.toNat mn.toNat
  | .usage use marker => decide (use.toNat ≤ 1) && decide (marker.toNat ≤ 63)
  | .stolen2 flag => decide (flag.toNat ≤ 1)
  | .freq _ => true
  | .lch _ => true

end Sys2Proof.Machine
end

