-- ==== Sys2Proof/Machine/Ops.lean ====
section
/-! DEFINITION. The named operations over the state: emission, the state writes, the environment and delivery
(spec/10_state.md R23, spec/43_host.md R87 to R96, spec/42_splitter.md R79), and how a command ends: a response, or a fault
(spec/00_scope.md R10, spec/60_exceptions.md R97 to R99).

The block has no traps (R103): "every problem with a command is a *fault status* in that command's response".
`raiseFault` is that one operation; there is nothing to return from. -/

namespace Sys2Proof

/-- FREE VALUE (notes/assumptions/2.md): the environment function that `EnvParam.other id` names. It sees the delivered
record and R14's tuple (R95). No body: nothing can evaluate it. -/
opaque Config.otherEnv : (id : Nat) → (rec : Machine.Record) → (S : Machine.Block) → List Machine.Write

namespace Machine

/-! ## Updates of the state -/

/-- Replace the block. -/
def State.withBlock (s : State) (b : Block) : State := { s with block := b }

/-- Replace the bytes waiting at the command port. -/
def State.withPort (s : State) (bytes : List Byte) : State := { s with port := bytes }

/-- Return one response (R38). -/
def State.respond (s : State) (r : Response) : State := { s with responses := s.responses ++ [r] }

/-- `emit(rec)` appends record rec to OUTQ (R10, R23). -/
def Block.emit (b : Block) (r : Record) : Block := { b with outq := b.outq ++ [r] }

/-- `emit(Evt(code, TIME))`: "Every event carries TIME as it stood when the event was emitted" (R100). -/
def Block.event (b : Block) (e : Event) : Block := b.emit (.evt e b.time)

/-- TIME <- t. -/
def Block.withTime (b : Block) (t : Time) : Block := { b with time := t }

/-- BUF <- v. -/
def Block.withBuf (b : Block) (v : Bits) : Block := { b with buf := v }

/-- CNT <- n. -/
def Block.withCnt (b : Block) (n : Nat) : Block := { b with cnt := n }

/-- SYNC <- x. -/
def Block.withSync (b : Block) (x : Bool) : Block := { b with sync := x }

/-- STOLEN2 <- x. -/
def Block.withStolen2 (b : Block) (x : Bool) : Block := { b with stolen2 := x }

/-- CLOSED <- x. -/
def Block.withClosed (b : Block) (x : Bool) : Block := { b with closed := x }

/-! ## State writes (R87 to R93) -/

/-- `scode(cc, mcc, mnc) := ((cc or (mnc << 6) or (mcc << 20)) << 2) or 3` (R87). -/
def scode (cc : BitVec 6) (mcc : BitVec 10) (mnc : BitVec 14) : Word32 :=
  ((cc.setWidth 32 ||| mnc.setWidth 32 <<< 6 ||| mcc.setWidth 32 <<< 20) <<< 2) ||| 3

/-- The state change of a write whose fields fit. -/
def Write.apply (b : Block) : Write → Block
  | .cell cc mcc mnc =>
    let cc := cc.setWidth 6
    let mcc := mcc.setWidth 10
    let mnc := mnc.setWidth 14
    { b with cell := { b.cell with cc := cc, mcc := mcc, mnc := mnc, scode := scode cc mcc mnc } }
  | .time tn fn mn => { b with time := ⟨tn.toNat, fn.toNat, mn.toNat⟩ }
  | .usage use marker => { b with chan := { b.chan with usage := use != 0, marker := marker.setWidth 6 } }
  | .stolen2 flag => { b with stolen2 := flag != 0 }
  | .freq f => { b with cell := { b.cell with freq := f } }
  | .lch l => { b with chan := { b.chan with lch := l } }

/-! ## The environment and delivery (R95, R96, R79) -/

/-- ENV_REF (R96): the reference environment's reaction to a delivery. -/
def envRef : Record → List Write
  | .dlv .bsch _ v =>
    [.cell (BitVec.ofNat 8 (intOf (slice v 4 10))) (BitVec.ofNat 16 (intOf (slice v 31 41)))
       (BitVec.ofNat 16 (intOf (slice v 41 55))),
     .time (BitVec.ofNat 8 (intOf (slice v 10 12) + 1)) (BitVec.ofNat 8 (intOf (slice v 12 17)))
       (BitVec.ofNat 8 (intOf (slice v 17 23)))]
  | .dlv .aach _ v =>
    if intOf (slice v 0 2) = 0 then [.usage 0 0]
    else [.usage (if 4 ≤ intOf (slice v 2 8) then 1 else 0) (BitVec.ofNat 8 (intOf (slice v 2 8)))]
  | .dlv .bnch _ _ => []
  | .dlv .schHd _ _ => []
  | .dlv .stch _ _ => []
  | .dlv .schF _ _ => []
  | .dlv .tchHalf _ _ => []
  | .tch _ _ _ _ _ => []
  | .evt _ _ => []

/-- `P_ENV(rec, S)` (R95). -/
def envWrites (P : Params) (r : Record) (b : Block) : List Write :=
  match P.env with
  | .null => []
  | .ref => envRef r
  | .other id => Config.otherEnv id r b

/-- One element of P_ENV's list: applied where its fields fit, else the event ENV_WRITE_REJECTED (R95). -/
def applyEnvWrite (b : Block) (w : Write) : Block :=
  if w.fieldsFit then w.apply b else b.event .envWriteRejected

/-- `env(rec)` (R95): "for w in P_ENV(rec, S) in order". -/
def runEnv (P : Params) (r : Record) (b : Block) : Block := (envWrites P r b).foldl applyEnvWrite b

/-- `deliver(ch, bits)` (R79): the record is stamped with TIME and emitted, then the environment runs. -/
def deliver (P : Params) (ch : Channel) (bits : Bits) (b : Block) : Block :=
  let r := Record.dlv ch b.time bits
  runEnv P r (b.emit r)

/-! ## How a command ends (R10, R38, R97, R98) -/

/-- What a command comes to: the new block and the response payload, or a fault status. -/
abbrev Result := Except Status (Block × List Byte)

/-- `raise Fault(code)`: "ends the command with status `code` and **no state change**" (R10, R98). -/
def raiseFault (code : Status) (s : State) : State := s.respond ⟨code, []⟩

/-- A command's end: `respond(OK, payload)` with its writes made, or the fault. Every command is answered by exactly one
response (R38, R99). -/
def finish (s : State) : Result → Host.Outcome State Fault Refusal
  | .ok (b, payload) => .next ((s.withBlock b).respond ⟨.ok, payload⟩)
  | .error code => .next (raiseFault code s)

/-- "if CLOSED = 1: raise Fault(CLOSED)", the first check of every command but RD_STATE and RESET (R22, R97). -/
def unlessClosed (b : Block) (r : Result) : Result := if b.closed then .error .closed else r

/-- "if any d[k] not in {0,1}: raise Fault(BAD_ELEMENT)". -/
def withBits (d : List Byte) (k : Bits → Result) : Result :=
  match bitsOf d with
  | none => .error .badElement
  | some v => k v

/-- "if any d[i] not in {0,1,2}: raise Fault(BAD_ELEMENT)". -/
def withTrits (d : List Byte) (k : Trits → Result) : Result :=
  match tritsOf d with
  | none => .error .badElement
  | some v => k v

/-- A reserved opcode: BAD_OPCODE, and CLOSED where CLOSED = 1, since "CLOSED is tested before the opcode" (R44, R97). -/
def rejectOpcode (s : State) : State := raiseFault (if s.block.closed then .closed else .badOpcode) s

/-- A write command (R88 to R93): "checks CLOSED first, then its fields" (R86). -/
def writeCommand (w : Write) (b : Block) : Result :=
  unlessClosed b (if w.fieldsFit then .ok (w.apply b, []) else .error .badField)

end Machine

end Sys2Proof
end

