-- ==== Sys2Proof/Machine/HostInterface.lean ====
section
/-! DEFINITION. The host's commands: the state writes and the read-back (spec/43_host.md), and RESET
(spec/70_reset_and_hazards.md R111). -/

namespace Sys2Proof.Machine

/-- `WR_CELL cc, mcc, mnc` (R88). -/
def execWrCell (cc : Byte) (mcc mnc : Word16) (s : State) : Host.Outcome State Fault Refusal :=
  finish s (writeCommand (.cell cc mcc mnc) s.block)

/-- `WR_TIME tn, fn, mn` (R90). -/
def execWrTime (tn fn mn : Byte) (s : State) : Host.Outcome State Fault Refusal :=
  finish s (writeCommand (.time tn fn mn) s.block)

/-- `WR_USAGE usage, marker` (R91). -/
def execWrUsage (usage marker : Byte) (s : State) : Host.Outcome State Fault Refusal :=
  finish s (writeCommand (.usage usage marker) s.block)

/-- `WR_STOLEN2 flag` (R93). -/
def execWrStolen2 (flag : Byte) (s : State) : Host.Outcome State Fault Refusal :=
  finish s (writeCommand (.stolen2 flag) s.block)

/-- `WR_FREQ freq` (R89). -/
def execWrFreq (freq : Word32) (s : State) : Host.Outcome State Fault Refusal :=
  finish s (writeCommand (.freq freq) s.block)

/-- `WR_LCH lch` (R92). -/
def execWrLch (lch : Byte) (s : State) : Host.Outcome State Fault Refusal :=
  finish s (writeCommand (.lch lch) s.block)

/-- The payload of RD_STATE, in the order of R94's table. -/
def snapshot (b : Block) : List Byte :=
  [bitByte b.sync] ++ u16Nat b.cnt ++ b.time.bytes ++
  [b.cell.cc.setWidth 8] ++ u16Bytes (b.cell.mcc.setWidth 16) ++ u16Bytes (b.cell.mnc.setWidth 16) ++
  u32Bytes b.cell.scode ++ u32Bytes b.cell.freq ++
  [bitByte b.chan.usage, b.chan.marker.setWidth 8, b.chan.lch] ++
  [bitByte b.stolen2, bitByte b.closed] ++ countedVec (bitsBytes b.buf)

/-- `RD_STATE`: "accepted even when CLOSED = 1, and changes nothing" (R94). -/
def rdStateCommand (b : Block) : Result := .ok (b, snapshot b)

def execRdState (s : State) : Host.Outcome State Fault Refusal := finish s (rdStateCommand s.block)

/-- Every register at its reset value; "OUTQ keeps its records" (R27, R111). -/
def resetBlock (b : Block) : Block := { Block.initial with outq := b.outq }

/-- `RESET`: "accepted whatever CLOSED is, and it never faults" (R111). -/
def resetCommand (b : Block) : Result := .ok (resetBlock b, [])

def execReset (s : State) : Host.Outcome State Fault Refusal := finish s (resetCommand s.block)

end Sys2Proof.Machine
end

