-- ==== Sys2Proof/Machine/Primitives.lean ====
section
/-! DEFINITION. The channel-coding primitives (spec/41_primitives.md): each a pure function, and its command.

The commands read no state but CLOSED, write none and emit nothing (spec/20_memory.md R33). -/

namespace Sys2Proof.Machine

/-! ## LFSR descrambler (R60, R61) -/

/-- The feedback bit: "XOR over y in P_LFSR_TAPS of ST(r, y)", `ST(r, y) := r[32 - y]` (R60). -/
def lfsrFeedback (taps : List Nat) (r : Word32) : Bool :=
  taps.foldl (fun acc y => acc ^^ r.getLsbD (32 - y)) false

/-- `r' := (r >> 1) or (fb << 31)` (R60). -/
def lfsrShift (fb : Bool) (r : Word32) : Word32 := r >>> 1 ||| (BitVec.ofBool fb).setWidth 32 <<< 31

/-- `keystream(seed, n)`: n successive feedback bits (R60). -/
def keystream (taps : List Nat) : Word32 → Nat → Bits
  | _, 0 => []
  | r, n + 1 => lfsrFeedback taps r :: keystream taps (lfsrShift (lfsrFeedback taps r) r) n

/-- `descramble(d, seed)`: `d[k] xor keystream(seed, n)[k]` (R61). -/
def descramble (P : Params) (d : Bits) (seed : Word32) : Bits :=
  List.zipWith xor d (keystream P.lfsrTaps seed d.length)

/-- `DESCRAMBLE seed, d` (R61). -/
def descrambleCommand (P : Params) (seed : Word32) (d : List Byte) (b : Block) : Result :=
  unlessClosed b <| withBits d fun v => .ok (b, countedVec (bitsBytes (descramble P v seed)))

def execDescramble (seed : Word32) (d : List Byte) (s : State) : Host.Outcome State Fault Refusal :=
  finish s (descrambleCommand s.params seed d s.block)

/-! ## Block deinterleaver (R62, R64) -/

/-- The source index of output i: `(P_DEINT_OFFSET + a·(i+1)) mod K` (R62). -/
def deintIndex (P : Params) (k a i : Nat) : Nat := (P.deintOffset + a * (i + 1)) % k

/-- `deinterleave(d, K, a)` (R62). -/
def deinterleave (P : Params) (d : Bits) (k a : Nat) : Bits :=
  (List.range k).map fun i => d.getD (deintIndex P k a i) false

/-- `DEINTERLEAVE K, a, d` (R64). -/
def deinterleaveCommand (P : Params) (k a : Nat) (d : List Byte) (b : Block) : Result :=
  unlessClosed b <| withBits d fun v =>
    if k = 0 || Nat.gcd a k != 1 then .error .badParam
    else .ok (b, u16Nat k ++ bitsBytes (deinterleave P v k a))

def execDeinterleave (k a : Word16) (d : List Byte) (s : State) : Host.Outcome State Fault Refusal :=
  finish s (deinterleaveCommand s.params k.toNat a.toNat d s.block)

/-! ## RCPC depuncturer (R65) -/

/-- The 8-vector `e_j` of three received bits: kept positions hold them, "every other e_j[k] = 2" (R65). -/
def punctureGroup (P : Params) (x y z : Bool) : Trits :=
  (List.range Config.punctPeriod).map fun k =>
    if k = P.keep0 then tritBit x else if k = P.keep1 then tritBit y else if k = P.keep2 then tritBit z else .erased

/-- `depuncture23(d)`, for a length that is a multiple of 3 (R65). -/
def depuncture23 (P : Params) : Bits → Trits
  | x :: y :: z :: rest => punctureGroup P x y z ++ depuncture23 P rest
  | _ => []

/-- `DEPUNCTURE23 d` (R65). -/
def depuncture23Command (P : Params) (d : List Byte) (b : Block) : Result :=
  unlessClosed b <|
    if d.length % 3 != 0 || decide (8 * d.length / 3 > Config.vecMax) then .error .badLength
    else withBits d fun v => .ok (b, countedVec (tritsBytes (depuncture23 P v)))

def execDepuncture23 (d : List Byte) (s : State) : Host.Outcome State Fault Refusal :=
  finish s (depuncture23Command s.params d s.block)

/-! ## Convolutional code and Viterbi decoder (R67, R68) -/

/-- The parity of the tap bits `g_k[j] and reg[j]` (R67). -/
def tapParity (g reg : BitVec 5) : Bool :=
  (List.range 5).foldl (fun acc j => acc ^^ (g &&& reg).getLsbD j) false

/-- The four mother bits of one coder step from state `s` under input `u`, G1 first; `reg = (u, s[3], …, s[0])` (R67). -/
def convOut (g : Generators) (s : BitVec 4) (u : Bool) : List Bool :=
  let reg := BitVec.cons u s
  [tapParity g.g1 reg, tapParity g.g2 reg, tapParity g.g3 reg, tapParity g.g4 reg]

/-- `s' := (u << 3) or (s >> 1)` (R67). -/
def convNext (s : BitVec 4) (u : Bool) : BitVec 4 := (BitVec.ofBool u).setWidth 4 <<< 3 ||| s >>> 1

/-- Whether a received trit disagrees with a mother bit: an erasure never does (R68). -/
def Trit.disagrees : Trit → Bool → Bool
  | .zero, o => o
  | .one, o => !o
  | .erased, _ => false

/-- `bm(r, o)`: "erasures cost nothing" (R68). -/
def branchMetric (r : Trits) (o : List Bool) : Nat := (r.zip o).countP fun (x, y) => Trit.disagrees x y

/-- A way into a state: its metric, its predecessor and the input bit. -/
structure Candidate where
  metric : Nat
  pred   : BitVec 4
  input  : Bool
  deriving DecidableEq, Repr

/-- The sixteen coder states in ascending order. -/
def allStates : List (BitVec 4) := (List.range 16).map (BitVec.ofNat 4)

/-- The states `p` that reach `n`, in ascending order: those with `convNext p u = n` for `u = n[3]` (R67). -/
def predecessors (n : BitVec 4) : List (BitVec 4) := [n <<< 1, n <<< 1 ||| 1]

/-- `M[s]`; `none` is inf. -/
def metricOf (m : List (Option Nat)) (s : BitVec 4) : Option Nat := m.getD s.toNat none

/-- The candidates into state `n` from the reachable predecessors (R68). -/
def candidates (P : Params) (m : List (Option Nat)) (r : Trits) (n : BitVec 4) : List Candidate :=
  (predecessors n).filterMap fun p =>
    match metricOf m p with
    | none => none
    | some c => some ⟨c + branchMetric r (convOut P.convG p n.msb), p, n.msb⟩

/-- The least metric of a list of metrics. -/
def leastMetric : List Nat → Option Nat
  | [] => none
  | x :: xs =>
    match leastMetric xs with
    | none => some x
    | some y => some (if x ≤ y then x else y)

/-- One of several tied items, listed in ascending order of state (P_VIT_TIE, R68). `choice` decides for a rule of
another decoder. -/
def pickTied {α : Type} (rule : TieRule) (choice : Nat → Nat) (tied : List α) : Option α :=
  match rule with
  | .smaller => tied.head?
  | .larger => tied.getLast?
  | .other id => tied[choice id % tied.length]?

/-- "choose the candidate with least metric; on equal metric the least p" (R68, default P_VIT_TIE). -/
def bestCandidate (rule : TieRule) (choice : Nat → Nat) (cs : List Candidate) : Option Candidate :=
  match leastMetric (cs.map (·.metric)) with
  | none => none
  | some least => pickTied rule choice (cs.filter fun c => c.metric == least)

/-- One trellis step: `SURV[t][n]` with `M'[n]`, for each next state n (R68). -/
def viterbiStep (P : Params) (d : Trits) (t : Nat) (m : List (Option Nat)) (r : Trits) : List (Option Candidate) :=
  allStates.map fun n =>
    bestCandidate P.survivorTie (fun id => Config.tieChoice id d t n.toNat) (candidates P m r n)

/-- `M'` of a trellis row. -/
def rowMetrics (row : List (Option Candidate)) : List (Option Nat) := row.map fun c => c.map (·.metric)

/-- `M[0] := 0; M[s] := inf` (R68). -/
def startMetrics : List (Option Nat) := some 0 :: List.replicate 15 none

/-- The forward pass over the received vector: the final metrics, and the survivor rows, the last step first. -/
def viterbiForward (P : Params) (d : Trits) :
    Nat → List (Option Nat) → List (List (Option Candidate)) → Trits → List (Option Nat) × List (List (Option Candidate))
  | t, m, rows, a :: b :: c :: e :: rest =>
    let row := viterbiStep P d t m [a, b, c, e]
    viterbiForward P d (t + 1) (rowMetrics row) (row :: rows) rest
  | _, m, rows, _ => (m, rows)

/-- `s_end`: "the state with least M[s]; on equal metric the least s" (R68). -/
def endState (P : Params) (d : Trits) (t : Nat) (m : List (Option Nat)) : BitVec 4 :=
  let reached := allStates.filterMap fun s => (metricOf m s).map fun c => (⟨c, s, false⟩ : Candidate)
  match bestCandidate P.endTie (fun id => Config.tieChoice id d t 16) reached with
  | some c => c.pred
  | none => 0

/-- The trace back, last row first, collecting u in time order (R68). -/
def traceback : List (List (Option Candidate)) → BitVec 4 → Bits → Bits
  | [], _, acc => acc
  | row :: rows, n, acc =>
    match row.getD n.toNat none with
    | some c => traceback rows c.pred (c.input :: acc)
    | none => traceback rows n (false :: acc)

/-- `viterbi(d)`, for a length that is a multiple of 4 (R68). -/
def viterbi (P : Params) (d : Trits) : Bits :=
  let (m, rows) := viterbiForward P d 0 startMetrics [] d
  traceback rows (endState P d (d.length / 4) m) []

/-- `VITERBI d` (R68). -/
def viterbiCommand (P : Params) (d : List Byte) (b : Block) : Result :=
  unlessClosed b <|
    if d.length % 4 != 0 then .error .badLength
    else withTrits d fun v => .ok (b, countedVec (bitsBytes (viterbi P v)))

def execViterbi (d : List Byte) (s : State) : Host.Outcome State Fault Refusal :=
  finish s (viterbiCommand s.params d s.block)

/-! ## Reed-Muller decoder (R70) -/

/-- `rm_decode(d) := d[0..14)`: "no error correction applied" (R70). -/
def rmDecode (d : Bits) : Bits := slice d 0 Config.rmK

/-- `RM_DECODE d` (R70). -/
def rmDecodeCommand (d : List Byte) (b : Block) : Result :=
  unlessClosed b <| withBits d fun v => .ok (b, bitsBytes (rmDecode v))

def execRmDecode (d : List Byte) (s : State) : Host.Outcome State Fault Refusal :=
  finish s (rmDecodeCommand d s.block)

/-! ## CRC-16 validator (R71, R72) -/

/-- One step of the CRC register: `f := c[15] xor d[i]` (R71). -/
def crcStep (c : Word16) (x : Bool) : Word16 :=
  if c.msb ^^ x then c <<< 1 ^^^ Config.crcPoly else c <<< 1

/-- `crc_reg(d, L)` (R71). -/
def crcReg (d : Bits) (len : Nat) : Word16 := (d.take len).foldl crcStep Config.crcInit

/-- `crc16_check(d, L)` (R72). -/
def crc16Check (d : Bits) (len : Nat) : Bool := crcReg d len == Config.crcResidue

/-- `CRC16_CHECK L, d` (R72). -/
def crc16CheckCommand (len : Nat) (d : List Byte) (b : Block) : Result :=
  unlessClosed b <|
    if decide (len > d.length) then .error .badLength
    else withBits d fun v => .ok (b, [bitByte (crc16Check v len)])

def execCrc16Check (len : Word16) (d : List Byte) (s : State) : Host.Outcome State Fault Refusal :=
  finish s (crc16CheckCommand len.toNat d s.block)

end Sys2Proof.Machine
end

