-- ==== Sys2Proof/Machine/Splitter.lean ====
section
/-! DEFINITION. The lower-MAC block splitter and coded-block router (spec/42_splitter.md): the decode chain, the three
splitting routines in their block order, the traffic output, and the command SPLIT. -/

namespace Sys2Proof.Machine

/-- A channel class of R75: its deinterleaver pair, its checked length and its information length. -/
structure CodeClass where
  k       : Nat
  a       : Nat
  crcLen  : Nat
  infoLen : Nat
  deriving DecidableEq, Repr

/-- BSCH: the SB's BKN1 (R75). -/
def bschClass : CodeClass := ⟨Config.bschK, Config.bschA, Config.bschCrcLen, Config.bschInfoLen⟩

/-- HALF: the SB's BKN2, and the halves of an NDB_SF (R75). -/
def halfClass (P : Params) : CodeClass := ⟨P.halfK, P.halfA, P.halfCrcLen, P.halfInfoLen⟩

/-- FULL: the full slot of an NDB (R75). -/
def fullClass (P : Params) : CodeClass := ⟨P.fullK, P.fullA, P.fullCrcLen, P.fullInfoLen⟩

/-- The Viterbi output of the decode chain: descramble, deinterleave, depuncture, decode (R77). -/
def decodeChain (P : Params) (x : Bits) (seed : Word32) (c : CodeClass) : Bits :=
  viterbi P (depuncture23 P (deinterleave P (descramble P x seed) c.k c.a))

/-- `decode(x, s, c)` (R77): whether the CRC passes, and the information bits. -/
def decodeBlock (P : Params) (x : Bits) (seed : Word32) (c : CodeClass) : Bool × Bits :=
  let y := decodeChain P x seed c
  (crc16Check y c.crcLen, slice y 0 c.infoLen)

/-- `(ok, info) := decode(…); if ok: deliver(ch, info)`: a block whose CRC fails is "silently dropped" (R77). -/
def decodeAndDeliver (P : Params) (ch : Channel) (x : Bits) (seed : Word32) (c : CodeClass) (b : Block) : Block :=
  let (ok, info) := decodeBlock P x seed c
  if ok then deliver P ch info b else b

/-- `aach(b_bbk)`: the 30 BBK bits under CELL.SCODE, "no CRC and is always forwarded" (R78). -/
def aach (P : Params) (bbk : Bits) (b : Block) : Bits := rmDecode (descramble P bbk b.cell.scode)

/-- `deliver(AACH, aach(bbk))`. -/
def deliverAach (P : Params) (bbk : Bits) (b : Block) : Block := deliver P .aach (aach P bbk b) b

/-- P_SB_BKN2_CH as a channel (R81). -/
def SbBkn2Channel.channel : SbBkn2Channel → Channel
  | .schHd => .schHd
  | .bnch => .bnch

/-- `split_sb(b)`: BKN1 under P_SYNC_SEED, then BBK, then BKN2 under CELL.SCODE (R76, R81). -/
def splitSb (P : Params) (v : Bits) (b : Block) : Block :=
  let b := decodeAndDeliver P .bsch (extract P.layout.sbBkn1 v) Config.syncSeed bschClass b
  let b := deliverAach P (extract P.layout.sbBbk v) b
  decodeAndDeliver P (SbBkn2Channel.channel P.sbBkn2Ch) (extract P.layout.sbBkn2 v) b.cell.scode (halfClass P) b

/-- `soft(v)` (R84). -/
def soft (P : Params) (v : Bits) : List Byte := v.map fun x => if x then P.softOne else P.softZero

/-- The four segments `y[0..114)`, `y[114..228)`, `y[228..342)`, `y[342..432)` as one traffic record (R84). -/
def tchRecord (P : Params) (t : Time) (y : Bits) : Record :=
  .tch t (soft P (slice y 0 Config.tchSegment)) (soft P (slice y Config.tchSegment (2 * Config.tchSegment)))
    (soft P (slice y (2 * Config.tchSegment) (3 * Config.tchSegment)))
    (soft P (slice y (3 * Config.tchSegment) Config.tchLen))

/-- `tch_out(x)`: descrambled, not decoded, one Tch record; the environment is not called for it (R84). -/
def tchOut (P : Params) (x : Bits) (b : Block) : Block :=
  let y := if Config.tchDescramble then descramble P x b.cell.scode else x
  b.emit (tchRecord P b.time y)

/-- `split_ndb(b)`: the AACH, then the full slot, routed by the CHAN.USAGE the AACH left (R82). -/
def splitNdb (P : Params) (v : Bits) (b : Block) : Block :=
  let b := deliverAach P (extract P.layout.ndBbk v) b
  let x := extract P.layout.ndBkn1 v ++ extract P.layout.ndBkn2 v
  if b.chan.usage then tchOut P x b
  else decodeAndDeliver P .schF x b.cell.scode (fullClass P) b

/-- `STCH if CHAN.USAGE = 1 else SCH_HD` (R83). -/
def halfSlotChannel (b : Block) : Channel := if b.chan.usage then .stch else .schHd

/-- The second half slot of an NDB_SF in traffic mode when it is not stolen: P_SF_UNSTOLEN (R83). -/
def unstolenHalf (P : Params) (x : Bits) (b : Block) : Block :=
  match P.sfUnstolen with
  | .drop => b.event .bkn2Dropped
  | .tchHalf => deliver P .tchHalf (descramble P x b.cell.scode) b

/-- `split_sf(b)`: the AACH, then the two half slots; CHAN.USAGE and STOLEN2 are read again for the second (R83). -/
def splitSf (P : Params) (v : Bits) (b : Block) : Block :=
  let b := deliverAach P (extract P.layout.ndBbk v) b
  let b := decodeAndDeliver P (halfSlotChannel b) (extract P.layout.ndBkn1 v) b.cell.scode (halfClass P) b
  let x := extract P.layout.ndBkn2 v
  if b.chan.usage && !b.stolen2 then unstolenHalf P x b
  else decodeAndDeliver P (halfSlotChannel b) x b.cell.scode (halfClass P) b

/-- The blocks of a burst, by its type (R80). -/
def splitBlocks (P : Params) (ty : BurstType) (v : Bits) (b : Block) : Block :=
  match ty with
  | .sb => splitSb P v b
  | .ndb => splitNdb P v b
  | .ndbSf => splitSf P v b

/-- `split(b, type)`: the blocks, then `STOLEN2 <- 0` (R80). -/
def splitBurst (P : Params) (ty : BurstType) (v : Bits) (b : Block) : Block :=
  (splitBlocks P ty v b).withStolen2 false

/-- `SPLIT type, d` (R85): elements first, then the type (R97). -/
def splitCommand (P : Params) (ty : Byte) (d : List Byte) (b : Block) : Result :=
  unlessClosed b <| withBits d fun v =>
    match burstTypeOf ty with
    | none => .error .badParam
    | some t => .ok (splitBurst P t v b, [])

def execSplit (ty : Byte) (d : List Byte) (s : State) : Host.Outcome State Fault Refusal :=
  finish s (splitCommand s.params ty d s.block)

end Sys2Proof.Machine
end

