-- ==== Sys2Proof/Machine/Sync.lean ====
section
/-! DEFINITION. The burst synchronizer, the training-sequence detector and the TDMA time tracker (spec/40_sync.md): the
commands RX_SYMBOL, CLASSIFY, TDMA_INC and EOS. -/

namespace Sys2Proof.Machine

/-! ## TDMA time tracker (R57, R58) -/

/-- `tdma_inc`: TIME "wraps tn→fn→mn in that order" (R57). -/
def tdmaInc (t : Time) : Time :=
  if t.tn + 1 ≤ 4 then ⟨t.tn + 1, t.fn, t.mn⟩
  else if t.fn + 1 ≤ 18 then ⟨1, t.fn + 1, t.mn⟩
  else if t.mn + 1 ≤ 60 then ⟨1, 1, t.mn + 1⟩
  else ⟨1, 1, 1⟩

/-- `TDMA_INC` (R58). -/
def tdmaIncCommand (b : Block) : Result := unlessClosed b (.ok (b.withTime (tdmaInc b.time), []))

def execTdmaInc (s : State) : Host.Outcome State Fault Refusal := finish s (tdmaIncCommand s.block)

/-! ## Burst processing (R56) -/

/-- `PROCESS(b)`: an INVALID burst is dropped with an event and clears STOLEN2; any other is split (R56). -/
def processBurst (P : Params) (v : Bits) (b : Block) : Block :=
  match (classifyBurst P v).type with
  | none => (b.event .burstInvalid).withStolen2 false
  | some ty => splitBurst P ty v b

/-! ## Symbol reception (R51 to R54) -/

/-- The per_symbol countdown, before the symbol is appended (R51, R52). -/
def countSymbol (P : Params) (b : Block) : Block :=
  match P.countdown with
  | .literal => b
  | .perSymbol => if b.sync && decide (b.cnt > 0) then b.withCnt (b.cnt - 1) else b

/-- Loss of synchronization: "SYNC is cleared and one event record `Evt(SYNC_LOST, TIME)` is emitted" (R54). -/
def loseSync (b : Block) : Block := (b.withSync false).event .syncLost

/-- A confirmed frame boundary: SYNC, CNT and TIME are written before the burst is processed, and BUF is cleared
(R52). -/
def confirmBurst (P : Params) (b : Block) : Block :=
  let b' := ((b.withSync true).withCnt Config.resyncInit).withTime (tdmaInc b.time)
  (processBurst P b.buf b').withBuf []

/-- The loss check at the end of a coast, under per_symbol (R51, R52). -/
def checkCoastLoss (P : Params) (b : Block) : Block :=
  match P.countdown with
  | .literal => b
  | .perSymbol => if b.cnt = 0 then loseSync b else b

/-- Coasting (R52, R53). -/
def coastBurst (P : Params) (b : Block) : Block :=
  let b' := if P.coastTime then b.withTime (tdmaInc b.time) else b
  checkCoastLoss P ((processBurst P b.buf b').withBuf [])

/-- The literal countdown of the sliding branch, with its loss check (R51, R52). -/
def countSlide (P : Params) (b : Block) : Block :=
  match P.countdown with
  | .perSymbol => b
  | .literal =>
    if b.cnt > 0 then
      let b' := b.withCnt (b.cnt - 1)
      if b'.cnt = 0 && b'.sync then loseSync b' else b'
    else b

/-- The sliding branch: "discard the oldest bit" (R52). -/
def slideBuf (P : Params) (b : Block) : Block := countSlide P (b.withBuf (slice b.buf 1 Config.frameLen))

/-- `RX_SYMBOL` of a legal symbol: the block, and `found` (R52). -/
def receiveSymbol (P : Params) (sym : Bool) (b : Block) : Block × Bool :=
  let b := countSymbol P b
  let b := b.withBuf (b.buf ++ [sym])
  if b.buf.length < Config.frameLen then (b, false)
  else if boundary P b.buf then (confirmBurst P b, true)
  else if b.sync && b.cnt % Config.frameLen == 0 then (coastBurst P b, false)
  else (slideBuf P b, false)

/-- `RX_SYMBOL sym` (R52). -/
def rxSymbolCommand (P : Params) (sym : Byte) (b : Block) : Result :=
  unlessClosed b <|
    match bitOf sym with
    | none => .error .badElement
    | some x => .ok ((receiveSymbol P x b).1, [bitByte (receiveSymbol P x b).2])

def execRxSymbol (sym : Byte) (s : State) : Host.Outcome State Fault Refusal :=
  finish s (rxSymbolCommand s.params sym s.block)

/-! ## The classifier as a command (R50) -/

/-- `CLASSIFY d`: INVALID is a result, not a fault (R50). -/
def classifyCommand (P : Params) (d : List Byte) (b : Block) : Result :=
  unlessClosed b <| withBits d fun v =>
    let c := classifyBurst P v
    .ok (b, [classCode c.type] ++ u8Nat c.sSync ++ u8Nat c.sNorm1 ++ u8Nat c.sNorm2)

def execClassify (d : List Byte) (s : State) : Host.Outcome State Fault Refusal :=
  finish s (classifyCommand s.params d s.block)

/-! ## End of stream (R59) -/

/-- `EOS`: "a partial window is never processed" (R59). -/
def eosCommand (b : Block) : Result := unlessClosed b (.ok ((b.withBuf []).withClosed true, []))

def execEos (s : State) : Host.Outcome State Fault Refusal := finish s (eosCommand s.block)

end Sys2Proof.Machine
end

