-- ==== Sys2Proof/Machine/Dispatch.lean ====
section
/-! DEFINITION. The dispatch: one arm per instruction, in the order of spec/opcode_table.json. -/

namespace Sys2Proof.Machine

def exec (i : Instr) (s : State) : Host.Outcome State Fault Refusal :=
  match i with
  | .rxSymbol sym => Sys2Proof.Machine.execRxSymbol sym s
  | .eos => Sys2Proof.Machine.execEos s
  | .tdmaInc => Sys2Proof.Machine.execTdmaInc s
  | .descramble seed d => Sys2Proof.Machine.execDescramble seed d s
  | .deinterleave k a d => Sys2Proof.Machine.execDeinterleave k a d s
  | .depuncture23 d => Sys2Proof.Machine.execDepuncture23 d s
  | .viterbi d => Sys2Proof.Machine.execViterbi d s
  | .rmDecode d => Sys2Proof.Machine.execRmDecode d s
  | .crc16Check len d => Sys2Proof.Machine.execCrc16Check len d s
  | .classify d => Sys2Proof.Machine.execClassify d s
  | .split ty d => Sys2Proof.Machine.execSplit ty d s
  | .wrCell cc mcc mnc => Sys2Proof.Machine.execWrCell cc mcc mnc s
  | .wrTime tn fn mn => Sys2Proof.Machine.execWrTime tn fn mn s
  | .wrUsage usage marker => Sys2Proof.Machine.execWrUsage usage marker s
  | .wrStolen2 flag => Sys2Proof.Machine.execWrStolen2 flag s
  | .wrFreq freq => Sys2Proof.Machine.execWrFreq freq s
  | .wrLch lch => Sys2Proof.Machine.execWrLch lch s
  | .rdState => Sys2Proof.Machine.execRdState s
  | .reset => Sys2Proof.Machine.execReset s

end Sys2Proof.Machine
end

