-- ==== Sys2Proof/Machine/Step.lean ====
section
/-! DEFINITION. One step: the block takes the next command frame off its port and runs it to completion
(spec/00_scope.md R5, spec/30_encoding.md R38, R40, R44). -/

namespace Sys2Proof.Machine

/-- One command. A parameter instance that breaks R7 or R8 is refused. A reserved opcode is a frame of one byte, answered
by a fault status. A port that holds no whole frame is stuck: the block "waits for the rest of an incomplete frame without
limit" (R40). -/
def step (s : State) : Host.Outcome State Fault Refusal :=
  if s.params.valid then
    match decodeFrame s.port with
    | .command i rest => exec i (s.withPort rest)
    | .reservedOpcode _ rest => .next (rejectOpcode (s.withPort rest))
    | .incomplete => .fault (if s.port.isEmpty then .portEmpty else .incompleteFrame)
  else .refused .parametersRejected

/-- The host sends the frame of a table word before everything else that waits at the port: the next step takes exactly
this frame (notes/assumptions/4.md). -/
def State.withFetchWord (s : State) (nbits w : Nat) : State := s.withPort (tableFrame nbits w ++ s.port)

end Sys2Proof.Machine
end

