-- ==== Sys2Proof/Machine/Assembler.lean ====
section
/-! DEFINITION. The host-side assembler (spec/30_encoding.md R45, R46): the text of a command, the bytes of a program, and
the pseudo-instructions FEED, FEEDZ and CHAIN. "The block never sees them" (R46). -/

namespace Sys2Proof.Machine

/-- The frames of a list of commands, one after another with no separator (R38). -/
def assemble (program : List Instr) : List Byte := program.flatMap encode

/-- `FEED b"v"`: one `RX_SYMBOL v[i]` per element (R46). -/
def feed (v : Bits) : List Instr := v.map fun x => .rxSymbol (bitByte x)

/-- `FEEDZ n`: n copies of `RX_SYMBOL 0` (R46). -/
def feedZeros (n : Nat) : List Instr := List.replicate n (.rxSymbol 0)

/-- `CHAIN seed, K, a, len, b"v"`: five commands, "where each `<out>` is the `out` vector of the previous response"
(R46). The outs are those the primitives give for operands they accept. -/
def chain (P : Params) (seed : Word32) (k a len : Word16) (v : Bits) : List Instr :=
  let d1 := descramble P v seed
  let d2 := deinterleave P d1 k.toNat a.toNat
  let d3 := depuncture23 P d2
  let d4 := viterbi P d3
  [.descramble seed (bitsBytes v), .deinterleave k a (bitsBytes d1), .depuncture23 (bitsBytes d2),
   .viterbi (tritsBytes d3), .crc16Check len (bitsBytes d4)]

/-- The digits of a vector operand. -/
def digits (d : List Byte) : String := d.foldl (fun acc b => acc ++ toString b.toNat) ""

/-- `b"0110"`. -/
def bitText (d : List Byte) : String := "b\"" ++ digits d ++ "\""

/-- `t"0122"`. -/
def tritText (d : List Byte) : String := "t\"" ++ digits d ++ "\""

/-- An integer operand, in decimal. -/
def intText {n : Nat} (w : BitVec n) : String := toString w.toNat

/-- "the mnemonic, then its operands separated by commas, in the field order of rule R41. Vector operands omit their
length field" (R45). -/
def asmText : Instr → String
  | .rxSymbol sym => "RX_SYMBOL " ++ intText sym
  | .eos => "EOS"
  | .tdmaInc => "TDMA_INC"
  | .descramble seed d => "DESCRAMBLE " ++ intText seed ++ ", " ++ bitText d
  | .deinterleave k a d => "DEINTERLEAVE " ++ intText k ++ ", " ++ intText a ++ ", " ++ bitText d
  | .depuncture23 d => "DEPUNCTURE23 " ++ bitText d
  | .viterbi d => "VITERBI " ++ tritText d
  | .rmDecode d => "RM_DECODE " ++ bitText d
  | .crc16Check len d => "CRC16_CHECK " ++ intText len ++ ", " ++ bitText d
  | .classify d => "CLASSIFY " ++ bitText d
  | .split ty d => "SPLIT " ++ intText ty ++ ", " ++ bitText d
  | .wrCell cc mcc mnc => "WR_CELL " ++ intText cc ++ ", " ++ intText mcc ++ ", " ++ intText mnc
  | .wrTime tn fn mn => "WR_TIME " ++ intText tn ++ ", " ++ intText fn ++ ", " ++ intText mn
  | .wrUsage usage marker => "WR_USAGE " ++ intText usage ++ ", " ++ intText marker
  | .wrStolen2 flag => "WR_STOLEN2 " ++ intText flag
  | .wrFreq freq => "WR_FREQ " ++ intText freq
  | .wrLch lch => "WR_LCH " ++ intText lch
  | .rdState => "RD_STATE"
  | .reset => "RESET"

end Sys2Proof.Machine
end

