-- ==== Sys2Proof/Machine/Transmit.lean ====
section
/-! DEFINITION. The transmit side the rules refer to. None of these is a command: they define what the decoders invert
(spec/41_primitives.md R63, R66, R67, R73; spec/95_test_vectors.md 0.1, "Coded"). -/

namespace Sys2Proof.Machine

/-- `interleave(x, K, a)`: the vector y with `y[(P_DEINT_OFFSET + a·(i+1)) mod K] = x[i]` for every i (R63). -/
def interleave (P : Params) (x : Bits) (k a : Nat) : Bits :=
  (List.range k).foldl (fun y i => y.set (deintIndex P k a i) (x.getD i false)) (List.replicate k false)

/-- `puncture23(m)` for a length that is a multiple of 8: "the vector of the kept positions" (R66). -/
def puncture23 (P : Params) : Bits → Bits
  | x0 :: x1 :: x2 :: x3 :: x4 :: x5 :: x6 :: x7 :: rest =>
    let g := [x0, x1, x2, x3, x4, x5, x6, x7]
    g.getD P.keep0 false :: g.getD P.keep1 false :: g.getD P.keep2 false :: puncture23 P rest
  | _ => []

/-- The coder from state `s` (R67). -/
def convEncodeFrom (g : Generators) : BitVec 4 → Bits → Bits
  | _, [] => []
  | s, u :: us => convOut g s u ++ convEncodeFrom g (convNext s u) us

/-- `conv_encode(u)`: the coder "starts at s = 0" (R67). -/
def convEncode (P : Params) (u : Bits) : Bits := convEncodeFrom P.convG 0 u

/-- `fcs(x)`: the bits of `(not crc_reg(x, len(x)))`, most significant first (R73). -/
def fcs (x : Bits) : Bits := (List.range 16).map fun i => (~~~ crcReg x x.length).getLsbD (15 - i)

/-- The reference transmitter of a coded block: info ++ fcs(info) ++ 0000, coded, punctured, interleaved, scrambled. The
scrambler is `descramble` ("The same function is the scrambler of the transmit side", R61). -/
def transmitBlock (P : Params) (info : Bits) (seed : Word32) (c : CodeClass) : Bits :=
  descramble P
    (interleave P (puncture23 P (convEncode P (info ++ fcs info ++ [false, false, false, false]))) c.k c.a) seed

end Sys2Proof.Machine
end

