-- ==== Sys2Proof/Machine/Run.lean ====
section
/-! DEFINITION. A run and its observation (spec/70_reset_and_hazards.md R113). -/

namespace Sys2Proof.Machine

/-- At most `n` steps, stopping where the machine has no move. -/
def run : Nat → State → State
  | 0, s => s
  | n + 1, s =>
    match step s with
    | .next t => run n t
    | .fault _ => s
    | .refused _ => s

/-- "A run is a finite sequence of command frames, issued from the process-start state" (R113). A frame has at least one
byte, so as many steps as bytes reach the run's end. -/
def runBytes (P : Params) (bytes : List Byte) : State := run bytes.length ((State.initial P).withPort bytes)

/-- "Its observation is the sequence of responses, together with OUTQ and the final state" (R113). -/
structure Observation where
  responses : List Response
  outq      : List Record
  final     : Block
  deriving DecidableEq, Repr

def State.observe (s : State) : Observation := ⟨s.responses, s.block.outq, s.block⟩

end Sys2Proof.Machine
end

