-- ==== Sys2Proof/Safety.lean ====
section
/-! DEFINITION. What a safe state is: the properties the spec says every register keeps between commands
(spec/10_state.md R15, R17, R18, R19; spec/40_sync.md R55, R59). -/

namespace Sys2Proof.Machine

/-- "Between two commands, len(BUF) ≤ P_FRAME_LEN − 1" (R15), and EOS empties BUF (R59). -/
def Block.BufOk (b : Block) : Prop := b.buf.length < Config.frameLen ∧ (b.closed = true → b.buf = [])

/-- TIME's fields are in their ranges (R18). -/
def Block.TimeOk (b : Block) : Prop := timeInRange b.time.tn b.time.fn b.time.mn = true

/-- "CELL.SCODE always equals scode(CELL.CC, CELL.MCC, CELL.MNC)" (R19). -/
def Block.CellOk (b : Block) : Prop := b.cell.scode = scode b.cell.cc b.cell.mcc b.cell.mnc

/-- SYNC and CNT agree (R17, R55): CNT is 0 while lost; under `literal` it is P_RESYNC_INIT while synchronized; under
`per_symbol` it is then positive, at most P_RESYNC_INIT, and CNT + len(BUF) is a multiple of the frame length until the
stream is closed. -/
def Block.SyncOk (P : Params) (b : Block) : Prop :=
  (b.sync = false → b.cnt = 0) ∧
  (b.sync = true →
    match P.countdown with
    | .literal => b.cnt = Config.resyncInit
    | .perSymbol =>
      0 < b.cnt ∧ b.cnt ≤ Config.resyncInit ∧
      (b.closed = false → (b.cnt + b.buf.length) % Config.frameLen = 0))

/-- The invariant of the block between commands. -/
def Block.Inv (P : Params) (b : Block) : Prop := b.BufOk ∧ b.TimeOk ∧ b.CellOk ∧ b.SyncOk P

/-- A safe state: the invariant holds, under a parameter instance the model takes. -/
def State.Safe (s : State) : Prop := s.params.valid = true ∧ s.block.Inv s.params

end Sys2Proof.Machine
end

