-- ==== Sys2Proof/Certificates/Slice0/Obligations.lean ====
section
/-! DEFINITION. The statements for the provers, one `def Obligations.<Name> : Prop` each, and the few words they need.

A statement about a command writes the next state out as a record update of `s`: whatever the update does not name is
unchanged, so each is the command's frame and its completion as well. Every statement holds under every parameter instance
of the state (the values a rule leaves open included) unless it names one. -/

open Sys2Proof Sys2Proof.Machine

namespace Sys2Proof.Spec

/-! ## Words of the statements -/

/-- The last check but one of spec/60_exceptions.md R97: BAD_LENGTH. -/
def lengthBad : Instr → Prop
  | .depuncture23 d => d.length % 3 ≠ 0 ∨ 8 * d.length / 3 > 65535
  | .viterbi d => d.length % 4 ≠ 0
  | .crc16Check len d => len.toNat > d.length
  | _ => False

/-- BAD_ELEMENT: a byte outside the value set of the vector, or a symbol other than 0 or 1. -/
def elementBad : Instr → Prop
  | .rxSymbol sym => 1 < sym.toNat
  | .descramble _ d => ∃ b ∈ d, 1 < b.toNat
  | .deinterleave _ _ d => ∃ b ∈ d, 1 < b.toNat
  | .depuncture23 d => ∃ b ∈ d, 1 < b.toNat
  | .viterbi d => ∃ b ∈ d, 2 < b.toNat
  | .rmDecode d => ∃ b ∈ d, 1 < b.toNat
  | .crc16Check _ d => ∃ b ∈ d, 1 < b.toNat
  | .classify d => ∃ b ∈ d, 1 < b.toNat
  | .split _ d => ∃ b ∈ d, 1 < b.toNat
  | _ => False

/-- BAD_PARAM. -/
def paramBad : Instr → Prop
  | .deinterleave k a _ => k.toNat = 0 ∨ Nat.gcd a.toNat k.toNat ≠ 1
  | .split ty _ => 2 < ty.toNat
  | _ => False

/-- BAD_FIELD. -/
def fieldBad : Instr → Prop
  | .wrCell cc mcc mnc => cc.toNat > 63 ∨ mcc.toNat > 1023 ∨ mnc.toNat > 16383
  | .wrTime tn fn mn =>
    ¬ (1 ≤ tn.toNat ∧ tn.toNat ≤ 4) ∨ ¬ (1 ≤ fn.toNat ∧ fn.toNat ≤ 18) ∨ ¬ (1 ≤ mn.toNat ∧ mn.toNat ≤ 60)
  | .wrUsage usage marker => usage.toNat > 1 ∨ marker.toNat > 63
  | .wrStolen2 flag => flag.toNat > 1
  | _ => False

/-- The two commands that CLOSED does not stop (spec/10_state.md R22). -/
def acceptedWhenClosed : Instr → Prop
  | .rdState => True
  | .reset => True
  | _ => False

/-- The six primitive commands and CLASSIFY, which read no state but CLOSED (spec/20_memory.md R33). -/
def isPrimitive : Instr → Prop
  | .descramble _ _ => True
  | .deinterleave _ _ _ => True
  | .depuncture23 _ => True
  | .viterbi _ => True
  | .rmDecode _ => True
  | .crc16Check _ _ => True
  | .classify _ => True
  | _ => False

/-- The reserved opcodes as spec/30_encoding.md R44 lists them. -/
def reserved (op : Byte) : Prop :=
  op.toNat = 0x00 ∨ (0x04 ≤ op.toNat ∧ op.toNat ≤ 0x0F) ∨ (0x16 ≤ op.toNat ∧ op.toNat ≤ 0x1F) ∨
  (0x22 ≤ op.toNat ∧ op.toNat ≤ 0x2F) ∨ (0x36 ≤ op.toNat ∧ op.toNat ≤ 0x3E) ∨ 0x41 ≤ op.toNat

/-- The index of a TDMA time in its cycle of 4320 (spec/40_sync.md R57). -/
def timeIndex (t : Time) : Nat := (t.tn - 1) + 4 * (t.fn - 1) + 72 * (t.mn - 1)

/-- How many received trits disagree with the coded form of `u`: the metric VITERBI minimises (R68). -/
def pathMetric (P : Params) (d : Trits) (u : Bits) : Nat := branchMetric d (convEncode P u)

/-- The time a record carries. -/
def recordTime : Record → Time
  | .dlv _ t _ => t
  | .tch t _ _ _ _ => t
  | .evt _ t => t

/-- The records a decoded block adds to OUTQ where the environment writes nothing: one delivery, or none where its CRC
fails. -/
def delivered (ch : Channel) (t : Time) (r : Bool × Bits) : List Record := if r.1 then [.dlv ch t r.2] else []

/-- What a decoded block leaves, under any environment: its delivery with the environment's reaction, or nothing where its
CRC fails. -/
def afterBlock (P : Params) (ch : Channel) (r : Bool × Bits) (b : Block) : Block :=
  if r.1 then deliver P ch r.2 b else b

/-- ENV_REF's reading of an AACH's 14 bits (spec/43_host.md R96): CHAN.USAGE. -/
def refUsage (a : Bits) : Bool := intOf (slice a 0 2) != 0 && decide (4 ≤ intOf (slice a 2 8))

/-- ENV_REF's reading of an AACH's 14 bits (R96): CHAN.MARKER. -/
def refMarker (a : Bits) : BitVec 6 := if intOf (slice a 0 2) = 0 then 0 else BitVec.ofNat 6 (intOf (slice a 2 8))

/-- The block after ENV_REF's reaction to an AACH delivery of `a` (R79, R96). -/
def afterRefAach (a : Bits) (b : Block) : Block :=
  { b with
    chan := { b.chan with usage := refUsage a, marker := refMarker a }
    outq := b.outq ++ [.dlv .aach b.time a] }

end Sys2Proof.Spec

open Sys2Proof.Spec

/-! ## Frames and steps -/

/-- For every well-formed instruction, every operand at every value its fields admit: decoding its frame gives it back and
leaves the bytes after it. -/
def Obligations.DecodeOfEncode : Prop :=
  ∀ (i : Instr) (rest : List Byte), i.wf = true → decodeFrame (encode i ++ rest) = .command i rest

/-- Each frame has one meaning: what decodes to an instruction is that instruction's frame, and the instruction is well
formed. -/
def Obligations.EncodeOfDecode : Prop :=
  ∀ (bytes rest : List Byte) (i : Instr), decodeFrame bytes = .command i rest →
    i.wf = true ∧ bytes = encode i ++ rest

/-- The frame length of R41's table, found from the header alone, is what the decoder takes; a stream shorter than it is
incomplete, and nothing else is. -/
def Obligations.FrameLengthFromHeader : Prop :=
  ∀ bytes : List Byte,
    (∀ i rest, decodeFrame bytes = .command i rest → bytes.length = frameLength bytes + rest.length) ∧
    (∀ op rest, decodeFrame bytes = .reservedOpcode op rest → frameLength bytes = 1 ∧ bytes = op :: rest) ∧
    (decodeFrame bytes = .incomplete ↔ bytes.length < frameLength bytes)

/-- Frames written out byte by byte from R41 and the examples of R45, R61, R64, R88, R90 and R89. -/
def Obligations.WrittenFramesDecode : Prop :=
  decodeFrame [0x01, 0x01] = .command (.rxSymbol 1) [] ∧
  decodeFrame [0x10, 0x00, 0x00, 0x00, 0x03, 0x00, 0x04, 0x00, 0x00, 0x00, 0x00] =
    .command (.descramble 3 [0, 0, 0, 0]) [] ∧
  decodeFrame [0x11, 0x00, 0x05, 0x00, 0x02, 0x01, 0x00, 0x00, 0x00, 0x00] =
    .command (.deinterleave 5 2 [1, 0, 0, 0, 0]) [] ∧
  decodeFrame [0x30, 0x01, 0x03, 0x85, 0x3F, 0xFF] = .command (.wrCell 1 901 16383) [] ∧
  decodeFrame [0x31, 0x05, 0x01, 0x01] = .command (.wrTime 5 1 1) [] ∧
  decodeFrame [0x34, 0x17, 0xD7, 0x84, 0x00] = .command (.wrFreq 400000000) [] ∧
  decodeFrame [0x3F] = .command .rdState [] ∧ decodeFrame [0x40] = .command .reset []

/-- A step runs the decoded command: with a frame of `i` at the front of the command port, `step` is `exec i` on the state
whose port is past that frame. -/
def Obligations.StepRunsDecodedCommand : Prop :=
  ∀ (s : State) (i : Instr) (rest : List Byte), s.params.valid = true → decodeFrame s.port = .command i rest →
    step s = exec i { s with port := rest }

/-- R44 with the first clause of R97's order: a reserved opcode is a frame of one byte, answered BAD_OPCODE without payload
(CLOSED where CLOSED = 1), and changes no state. The opcodes are those R44 lists, and no other byte is one. -/
def Obligations.ReservedOpcodeAnswered : Prop :=
  (∀ op : Byte, Opcode.ofByte op = none ↔ reserved op) ∧
  (∀ (s : State) (op : Byte) (rest : List Byte), s.params.valid = true → reserved op → s.port = op :: rest →
    step s = .next { s with
      port := rest, responses := s.responses ++ [⟨if s.block.closed then .closed else .badOpcode, []⟩] })

/-- Where the port holds no whole frame the machine has no move (the fault's names are the model's:
notes/assumptions/5.md). -/
def Obligations.StuckWithoutWholeFrame : Prop :=
  ∀ s : State, s.params.valid = true →
    ((∃ r, step s = .fault r) ↔ s.port.length < frameLength s.port) ∧
    (step s = .fault .portEmpty ↔ s.port = [])

/-- From R7 and R8: an instance whose training sequences do not fit, whose pairs do not permute or whose kept positions are
not three distinct positions of a period is refused; the listed defaults are taken. That the set of R8 is an ascending
triple k0 < k1 < k2, as R65 names its elements, and that any other triple is refused with it, is the model's choice
(notes/assumptions/15.md). -/
def Obligations.ParameterInstanceRefused : Prop :=
  (∀ s : State,
    (∃ q ∈ [(s.params.tsBegin, 0), (s.params.tsEnd, 500), (s.params.tsSync, 214), (s.params.tsNorm1, 244),
        (s.params.tsNorm2, 244)],
      q.1.length < 10 ∨ 38 < q.1.length ∨ 510 < q.2 + q.1.length) ∨
    Nat.gcd s.params.halfA s.params.halfK ≠ 1 ∨ Nat.gcd s.params.fullA s.params.fullK ≠ 1 ∨
    ¬ (s.params.keep0 < s.params.keep1 ∧ s.params.keep1 < s.params.keep2 ∧ s.params.keep2 < 8) →
    step s = .refused .parametersRejected) ∧
  Params.default.valid = true

/-- R98 (and R38, R99): every command, on every state, is answered by exactly one response, and one with a status other
than OK changes no state, emits no record and carries no payload. The port and the parameters are never touched. -/
def Obligations.EveryCommandAnsweredOnce : Prop :=
  ∀ (i : Instr) (s : State), ∃ (b : Block) (r : Response),
    exec i s = .next { s with block := b, responses := s.responses ++ [r] } ∧
    (r.status ≠ .ok → b = s.block ∧ r.payload = [])

/-- R97: the status codes; the status of every command's response, in the order CLOSED, BAD_LENGTH, BAD_ELEMENT, BAD_PARAM
or BAD_FIELD; and of a reserved opcode's, CLOSED before BAD_OPCODE. With them the other codes and layouts a consumer reads:
the response's (R38), the enumerated values (R42) and the records' (R43). -/
def Obligations.StatusByPriority : Prop :=
  -- R38: the status byte, then the payload
  (∀ r : Response, r.bytes = r.status.code :: r.payload) ∧
  -- R42
  (BurstType.sb.code = 0x00 ∧ BurstType.ndb.code = 0x01 ∧ BurstType.ndbSf.code = 0x02 ∧ classCode none = 0xFF ∧
    ∀ t : BurstType, classCode (some t) = t.code ∧ burstTypeOf t.code = some t) ∧
  (Channel.aach.code = 0x00 ∧ Channel.bsch.code = 0x01 ∧ Channel.bnch.code = 0x02 ∧ Channel.schHd.code = 0x03 ∧
    Channel.stch.code = 0x04 ∧ Channel.schF.code = 0x05 ∧ Channel.tchHalf.code = 0x06) ∧
  (Event.syncLost.code = 0x01 ∧ Event.burstInvalid.code = 0x02 ∧ Event.bkn2Dropped.code = 0x03 ∧
    Event.envWriteRejected.code = 0x04) ∧
  -- R43: `D0 ch tn fn mn n:u16 bits`, `D1 tn fn mn s0 s1 s2 s3`, `E0 code tn fn mn`
  (∀ t : Time,
    let stamp : List Byte := [BitVec.ofNat 8 t.tn, BitVec.ofNat 8 t.fn, BitVec.ofNat 8 t.mn]
    (∀ (ch : Channel) (bits : Bits), (Record.dlv ch t bits).bytes =
      [0xD0, ch.code] ++ stamp ++ [BitVec.ofNat 8 (bits.length / 256), BitVec.ofNat 8 bits.length] ++
        bits.map fun x => if x then 1 else 0) ∧
    (∀ s0 s1 s2 s3 : List Byte, (Record.tch t s0 s1 s2 s3).bytes = [0xD1] ++ stamp ++ s0 ++ s1 ++ s2 ++ s3) ∧
    (∀ e : Event, (Record.evt e t).bytes = [0xE0, e.code] ++ stamp)) ∧
  -- R97
  (Status.ok.code = 0x00 ∧ Status.badOpcode.code = 0x01 ∧ Status.badLength.code = 0x02 ∧ Status.badElement.code = 0x03 ∧
    Status.badParam.code = 0x04 ∧ Status.badField.code = 0x05 ∧ Status.closed.code = 0x06) ∧
  (∀ s : State, rejectOpcode s =
    { s with responses := s.responses ++ [⟨if s.block.closed then .closed else .badOpcode, []⟩] }) ∧
  ∀ (i : Instr) (s : State), ∃ (b : Block) (r : Response),
    exec i s = .next { s with block := b, responses := s.responses ++ [r] } ∧
    (s.block.closed = true → ¬ acceptedWhenClosed i → r.status = .closed) ∧
    (s.block.closed = false ∨ acceptedWhenClosed i →
      (lengthBad i → r.status = .badLength) ∧
      (¬ lengthBad i → elementBad i → r.status = .badElement) ∧
      (¬ lengthBad i → ¬ elementBad i → paramBad i → r.status = .badParam) ∧
      (¬ lengthBad i → ¬ elementBad i → fieldBad i → r.status = .badField) ∧
      (¬ lengthBad i → ¬ elementBad i → ¬ paramBad i → ¬ fieldBad i → r.status = .ok))

/-- R22: CLOSED is set by EOS and cleared only by RESET, and while it is set every other command but RD_STATE fails with
status CLOSED. -/
def Obligations.ClosedUntilReset : Prop :=
  ∀ (i : Instr) (s t : State), exec i s = .next t →
    (s.block.closed = false → (t.block.closed = true ↔ i = .eos)) ∧
    (s.block.closed = true → (t.block.closed = false ↔ i = .reset)) ∧
    (s.block.closed = true → ¬ acceptedWhenClosed i →
      t = { s with responses := s.responses ++ [⟨.closed, []⟩] })

/-! ## The commands, one statement each -/

/-- R52: RX_SYMBOL. -/
def Obligations.RxSymbolCommand : Prop :=
  ∀ (sym : Byte) (s : State),
    encode (.rxSymbol sym) = [0x01, sym] ∧
    (s.block.closed = true →
      exec (.rxSymbol sym) s = .next { s with responses := s.responses ++ [⟨.closed, []⟩] }) ∧
    (s.block.closed = false → 1 < sym.toNat →
      exec (.rxSymbol sym) s = .next { s with responses := s.responses ++ [⟨.badElement, []⟩] }) ∧
    (s.block.closed = false → ∀ x : Bool, sym = bitByte x →
      let b := s.block
      let P := s.params
      let cnt := if P.countdown = .perSymbol ∧ b.sync = true ∧ b.cnt > 0 then b.cnt - 1 else b.cnt
      let buf := b.buf ++ [x]
      -- the buffer is not full yet
      (buf.length < 510 →
        exec (.rxSymbol sym) s = .next { s with
          block := { b with buf := buf, cnt := cnt }
          responses := s.responses ++ [⟨.ok, [0]⟩] }) ∧
      -- a confirmed boundary
      (buf.length = 510 → boundary P buf = true →
        exec (.rxSymbol sym) s = .next { s with
          block := { processBurst P buf { b with
            buf := buf, sync := true, cnt := 25500, time := tdmaInc b.time } with buf := [] }
          responses := s.responses ++ [⟨.ok, [1]⟩] }) ∧
      -- coasting
      (buf.length = 510 → boundary P buf = false → b.sync = true → cnt % 510 = 0 →
        ∃ b' : Block,
          b' = { processBurst P buf { b with
            buf := buf, cnt := cnt, time := if P.coastTime then tdmaInc b.time else b.time } with buf := [] } ∧
          exec (.rxSymbol sym) s = .next { s with
            block := if P.countdown = .perSymbol ∧ cnt = 0 then
                { b' with sync := false, outq := b'.outq ++ [.evt .syncLost b'.time] } else b'
            responses := s.responses ++ [⟨.ok, [0]⟩] }) ∧
      -- sliding
      (buf.length = 510 → boundary P buf = false → ¬ (b.sync = true ∧ cnt % 510 = 0) →
        exec (.rxSymbol sym) s = .next { s with
          block :=
            if P.countdown = .literal ∧ cnt > 0 then
              if cnt = 1 ∧ b.sync = true then
                { b with buf := buf.drop 1, cnt := 0, sync := false, outq := b.outq ++ [.evt .syncLost b.time] }
              else { b with buf := buf.drop 1, cnt := cnt - 1 }
            else { b with buf := buf.drop 1, cnt := cnt }
          responses := s.responses ++ [⟨.ok, [0]⟩] }))

/-- R59: EOS; where the block is closed, every command but RD_STATE and RESET fails, a second EOS among them. -/
def Obligations.EosCommand : Prop :=
  ∀ s : State,
    encode .eos = [0x02] ∧
    (s.block.closed = true → ∀ i : Instr, ¬ acceptedWhenClosed i →
      exec i s = .next { s with responses := s.responses ++ [⟨.closed, []⟩] }) ∧
    (s.block.closed = false → exec .eos s = .next { s with
      block := { s.block with buf := [], closed := true }
      responses := s.responses ++ [⟨.ok, []⟩] })

/-- R58: TDMA_INC, with the full wrap and the example of the rule. -/
def Obligations.TdmaIncCommand : Prop :=
  tdmaInc ⟨4, 18, 60⟩ = ⟨1, 1, 1⟩ ∧ tdmaInc ⟨4, 18, 59⟩ = ⟨1, 1, 60⟩ ∧
  ∀ s : State,
    encode .tdmaInc = [0x03] ∧
    (s.block.closed = true → exec .tdmaInc s = .next { s with responses := s.responses ++ [⟨.closed, []⟩] }) ∧
    (s.block.closed = false → exec .tdmaInc s = .next { s with
      block := { s.block with time := tdmaInc s.block.time }
      responses := s.responses ++ [⟨.ok, []⟩] })

/-- R57: the TDMA increment, in the order tn→fn→mn, with the document's two examples. -/
def Obligations.TdmaIncrementWraps : Prop :=
  (∀ tn fn mn : Nat, tn < 4 → tdmaInc ⟨tn, fn, mn⟩ = ⟨tn + 1, fn, mn⟩) ∧
  (∀ fn mn : Nat, fn < 18 → tdmaInc ⟨4, fn, mn⟩ = ⟨1, fn + 1, mn⟩) ∧
  (∀ mn : Nat, mn < 60 → tdmaInc ⟨4, 18, mn⟩ = ⟨1, 1, mn + 1⟩) ∧
  tdmaInc ⟨4, 18, 60⟩ = ⟨1, 1, 1⟩ ∧ tdmaInc ⟨4, 18, 59⟩ = ⟨1, 1, 60⟩

/-- R61: DESCRAMBLE; "`descramble(descramble(x, code), code) == x`" for any seed, and seed 0 changes nothing. -/
def Obligations.DescrambleCommand : Prop :=
  ∀ (seed : Word32) (d : List Byte) (s : State),
    encode (.descramble seed d) = 0x10 :: (u32Bytes seed ++ u16Nat d.length ++ d) ∧
    (encode (.descramble seed d)).length = 7 + d.length ∧
    (s.block.closed = true →
      exec (.descramble seed d) s = .next { s with responses := s.responses ++ [⟨.closed, []⟩] }) ∧
    (s.block.closed = false → (∃ b ∈ d, 1 < b.toNat) →
      exec (.descramble seed d) s = .next { s with responses := s.responses ++ [⟨.badElement, []⟩] }) ∧
    (s.block.closed = false → ∀ v : Bits, d = bitsBytes v →
      ∃ out : Bits, out.length = v.length ∧
        (∀ k < v.length, out[k]? = some (v.getD k false ^^ (keystream s.params.lfsrTaps seed v.length).getD k false)) ∧
        exec (.descramble seed d) s = .next { s with
          responses := s.responses ++ [⟨.ok, u16Nat v.length ++ bitsBytes out⟩] }) ∧
    (∀ v : Bits, descramble s.params (descramble s.params v seed) seed = v ∧ descramble s.params v 0 = v)

/-- R64, with the index formula of R62: DEINTERLEAVE. -/
def Obligations.DeinterleaveCommand : Prop :=
  Params.default.deintOffset = 0 ∧
  ∀ (k a : Word16) (d : List Byte) (s : State), d.length = k.toNat →
    encode (.deinterleave k a d) = 0x11 :: (u16Bytes k ++ u16Bytes a ++ d) ∧
    (encode (.deinterleave k a d)).length = 5 + k.toNat ∧
    (s.block.closed = true →
      exec (.deinterleave k a d) s = .next { s with responses := s.responses ++ [⟨.closed, []⟩] }) ∧
    (s.block.closed = false → (∃ b ∈ d, 1 < b.toNat) →
      exec (.deinterleave k a d) s = .next { s with responses := s.responses ++ [⟨.badElement, []⟩] }) ∧
    (s.block.closed = false → ∀ v : Bits, d = bitsBytes v →
      (k.toNat = 0 ∨ Nat.gcd a.toNat k.toNat ≠ 1 →
        exec (.deinterleave k a d) s = .next { s with responses := s.responses ++ [⟨.badParam, []⟩] }) ∧
      (k.toNat ≠ 0 → Nat.gcd a.toNat k.toNat = 1 →
        ∃ out : Bits, out.length = k.toNat ∧
          (∀ i < k.toNat, out[i]? = v[(s.params.deintOffset + a.toNat * (i + 1)) % k.toNat]?) ∧
          exec (.deinterleave k a d) s = .next { s with
            responses := s.responses ++ [⟨.ok, u16Bytes k ++ bitsBytes out⟩] }))

/-- R65: DEPUNCTURE23. -/
def Obligations.Depuncture23Command : Prop :=
  (Params.default.keep0 = 0 ∧ Params.default.keep1 = 1 ∧ Params.default.keep2 = 4) ∧
  ∀ (d : List Byte) (s : State),
    encode (.depuncture23 d) = 0x12 :: (u16Nat d.length ++ d) ∧
    (encode (.depuncture23 d)).length = 3 + d.length ∧
    (s.block.closed = true →
      exec (.depuncture23 d) s = .next { s with responses := s.responses ++ [⟨.closed, []⟩] }) ∧
    (s.block.closed = false → d.length % 3 ≠ 0 ∨ 8 * d.length / 3 > 65535 →
      exec (.depuncture23 d) s = .next { s with responses := s.responses ++ [⟨.badLength, []⟩] }) ∧
    (s.block.closed = false → d.length % 3 = 0 → 8 * d.length / 3 ≤ 65535 → (∃ b ∈ d, 1 < b.toNat) →
      exec (.depuncture23 d) s = .next { s with responses := s.responses ++ [⟨.badElement, []⟩] }) ∧
    (s.block.closed = false → d.length % 3 = 0 → 8 * d.length / 3 ≤ 65535 → ∀ v : Bits, d = bitsBytes v →
      s.params.keep0 < s.params.keep1 → s.params.keep1 < s.params.keep2 → s.params.keep2 < 8 →
      ∃ out : Trits, out.length = 8 * v.length / 3 ∧
        (∀ j < v.length / 3, ∀ k < 8,
          out[8 * j + k]? =
            if k = s.params.keep0 then v[3 * j]?.map tritBit
            else if k = s.params.keep1 then v[3 * j + 1]?.map tritBit
            else if k = s.params.keep2 then v[3 * j + 2]?.map tritBit
            else some .erased) ∧
        exec (.depuncture23 d) s = .next { s with
          responses := s.responses ++ [⟨.ok, u16Nat (8 * v.length / 3) ++ tritsBytes out⟩] })

/-- VITERBI as a command (R68): its checks, and the decoder's output of len/4 bits. What the decoder computes is stated by
`ViterbiMaximumLikelihood` and `ViterbiInvertsCoder`. -/
def Obligations.ViterbiCommand : Prop :=
  ∀ (d : List Byte) (s : State),
    encode (.viterbi d) = 0x13 :: (u16Nat d.length ++ d) ∧
    (encode (.viterbi d)).length = 3 + d.length ∧
    (s.block.closed = true →
      exec (.viterbi d) s = .next { s with responses := s.responses ++ [⟨.closed, []⟩] }) ∧
    (s.block.closed = false → d.length % 4 ≠ 0 →
      exec (.viterbi d) s = .next { s with responses := s.responses ++ [⟨.badLength, []⟩] }) ∧
    (s.block.closed = false → d.length % 4 = 0 → (∃ b ∈ d, 2 < b.toNat) →
      exec (.viterbi d) s = .next { s with responses := s.responses ++ [⟨.badElement, []⟩] }) ∧
    (s.block.closed = false → d.length % 4 = 0 → ∀ v : Trits, d = tritsBytes v →
      (viterbi s.params v).length = v.length / 4 ∧
      exec (.viterbi d) s = .next { s with
        responses := s.responses ++ [⟨.ok, u16Nat (v.length / 4) ++ bitsBytes (viterbi s.params v)⟩] })

/-- R70: RM_DECODE. The parity half never affects the output. -/
def Obligations.RmDecodeCommand : Prop :=
  ∀ (d : List Byte) (s : State), d.length = 30 →
    encode (.rmDecode d) = 0x14 :: d ∧ (encode (.rmDecode d)).length = 31 ∧
    (s.block.closed = true →
      exec (.rmDecode d) s = .next { s with responses := s.responses ++ [⟨.closed, []⟩] }) ∧
    (s.block.closed = false → (∃ b ∈ d, 1 < b.toNat) →
      exec (.rmDecode d) s = .next { s with responses := s.responses ++ [⟨.badElement, []⟩] }) ∧
    (s.block.closed = false → ∀ info parity : Bits, info.length = 14 → d = bitsBytes (info ++ parity) →
      exec (.rmDecode d) s = .next { s with responses := s.responses ++ [⟨.ok, bitsBytes info⟩] })

/-- R72, with the register of R71: CRC16_CHECK. Only d[0..L) enters the register, all of d is validated. -/
def Obligations.Crc16CheckCommand : Prop :=
  (∀ (c : Word16) (x : Bool),
    (c.getLsbD 15 = x → (crcStep c x).toNat = 2 * c.toNat % 65536) ∧
    (c.getLsbD 15 ≠ x → crcStep c x = BitVec.ofNat 16 (2 * c.toNat) ^^^ 0x1021)) ∧
  ∀ (len : Word16) (d : List Byte) (s : State),
    encode (.crc16Check len d) = 0x15 :: (u16Bytes len ++ u16Nat d.length ++ d) ∧
    (encode (.crc16Check len d)).length = 5 + d.length ∧
    (s.block.closed = true →
      exec (.crc16Check len d) s = .next { s with responses := s.responses ++ [⟨.closed, []⟩] }) ∧
    (s.block.closed = false → len.toNat > d.length →
      exec (.crc16Check len d) s = .next { s with responses := s.responses ++ [⟨.badLength, []⟩] }) ∧
    (s.block.closed = false → len.toNat ≤ d.length → (∃ b ∈ d, 1 < b.toNat) →
      exec (.crc16Check len d) s = .next { s with responses := s.responses ++ [⟨.badElement, []⟩] }) ∧
    (s.block.closed = false → ∀ v w : Bits, v.length = len.toNat → d = bitsBytes (v ++ w) →
      exec (.crc16Check len d) s = .next { s with
        responses := s.responses ++ [⟨.ok, [if v.foldl crcStep 0xFFFF = 0x1D0F then 1 else 0]⟩] })

/-- R50: CLASSIFY. INVALID is a result, code 0xFF. -/
def Obligations.ClassifyCommand : Prop :=
  ∀ (d : List Byte) (s : State), d.length = 510 →
    encode (.classify d) = 0x20 :: d ∧ (encode (.classify d)).length = 511 ∧
    (s.block.closed = true →
      exec (.classify d) s = .next { s with responses := s.responses ++ [⟨.closed, []⟩] }) ∧
    (s.block.closed = false → (∃ b ∈ d, 1 < b.toNat) →
      exec (.classify d) s = .next { s with responses := s.responses ++ [⟨.badElement, []⟩] }) ∧
    (s.block.closed = false → ∀ v : Bits, d = bitsBytes v →
      ∃ code : Byte,
        code = (match (classifyBurst s.params v).type with
          | some .sb => 0x00
          | some .ndb => 0x01
          | some .ndbSf => 0x02
          | none => 0xFF) ∧
        exec (.classify d) s = .next { s with
          responses := s.responses ++ [⟨.ok,
            [code, BitVec.ofNat 8 (score v s.params.tsSync 214), BitVec.ofNat 8 (score v s.params.tsNorm1 244),
             BitVec.ofNat 8 (score v s.params.tsNorm2 244)]⟩] })

/-- R85: SPLIT runs the splitter on the stated type, with no classification and no TIME change of its own. -/
def Obligations.SplitCommand : Prop :=
  ∀ (ty : Byte) (d : List Byte) (s : State), d.length = 510 →
    encode (.split ty d) = 0x21 :: ty :: d ∧ (encode (.split ty d)).length = 512 ∧
    (s.block.closed = true →
      exec (.split ty d) s = .next { s with responses := s.responses ++ [⟨.closed, []⟩] }) ∧
    (s.block.closed = false → (∃ b ∈ d, 1 < b.toNat) →
      exec (.split ty d) s = .next { s with responses := s.responses ++ [⟨.badElement, []⟩] }) ∧
    (s.block.closed = false → ∀ v : Bits, d = bitsBytes v →
      (2 < ty.toNat →
        exec (.split ty d) s = .next { s with responses := s.responses ++ [⟨.badParam, []⟩] }) ∧
      (∀ t : BurstType, ty = t.code →
        exec (.split ty d) s = .next { s with
          block := { splitBlocks s.params t v s.block with stolen2 := false }
          responses := s.responses ++ [⟨.ok, []⟩] }))

/-- R88, with R87's scrambling code: WR_CELL writes the four fields together. -/
def Obligations.WrCellCommand : Prop :=
  ∀ (cc : Byte) (mcc mnc : Word16) (s : State),
    encode (.wrCell cc mcc mnc) = 0x30 :: cc :: (u16Bytes mcc ++ u16Bytes mnc) ∧
    (s.block.closed = true →
      exec (.wrCell cc mcc mnc) s = .next { s with responses := s.responses ++ [⟨.closed, []⟩] }) ∧
    (s.block.closed = false → cc.toNat > 63 ∨ mcc.toNat > 1023 ∨ mnc.toNat > 16383 →
      exec (.wrCell cc mcc mnc) s = .next { s with responses := s.responses ++ [⟨.badField, []⟩] }) ∧
    (s.block.closed = false → cc.toNat ≤ 63 → mcc.toNat ≤ 1023 → mnc.toNat ≤ 16383 →
      ∃ (c : BitVec 6) (m : BitVec 10) (n : BitVec 14),
        c.toNat = cc.toNat ∧ m.toNat = mcc.toNat ∧ n.toNat = mnc.toNat ∧
        exec (.wrCell cc mcc mnc) s = .next { s with
          block := { s.block with cell := { s.block.cell with
            cc := c, mcc := m, mnc := n
            scode := BitVec.ofNat 32 (((cc.toNat + mnc.toNat * 2 ^ 6 + mcc.toNat * 2 ^ 20) * 2 ^ 2) + 3) } }
          responses := s.responses ++ [⟨.ok, []⟩] })

/-- R90: WR_TIME. -/
def Obligations.WrTimeCommand : Prop :=
  ∀ (tn fn mn : Byte) (s : State),
    encode (.wrTime tn fn mn) = [0x31, tn, fn, mn] ∧
    (s.block.closed = true →
      exec (.wrTime tn fn mn) s = .next { s with responses := s.responses ++ [⟨.closed, []⟩] }) ∧
    (s.block.closed = false →
      ¬ (1 ≤ tn.toNat ∧ tn.toNat ≤ 4) ∨ ¬ (1 ≤ fn.toNat ∧ fn.toNat ≤ 18) ∨ ¬ (1 ≤ mn.toNat ∧ mn.toNat ≤ 60) →
      exec (.wrTime tn fn mn) s = .next { s with responses := s.responses ++ [⟨.badField, []⟩] }) ∧
    (s.block.closed = false → 1 ≤ tn.toNat → tn.toNat ≤ 4 → 1 ≤ fn.toNat → fn.toNat ≤ 18 → 1 ≤ mn.toNat →
      mn.toNat ≤ 60 →
      exec (.wrTime tn fn mn) s = .next { s with
        block := { s.block with time := ⟨tn.toNat, fn.toNat, mn.toNat⟩ }
        responses := s.responses ++ [⟨.ok, []⟩] })

/-- R91: WR_USAGE. Neither field's value constrains the other. -/
def Obligations.WrUsageCommand : Prop :=
  ∀ (usage marker : Byte) (s : State),
    encode (.wrUsage usage marker) = [0x32, usage, marker] ∧
    (s.block.closed = true →
      exec (.wrUsage usage marker) s = .next { s with responses := s.responses ++ [⟨.closed, []⟩] }) ∧
    (s.block.closed = false → usage.toNat > 1 ∨ marker.toNat > 63 →
      exec (.wrUsage usage marker) s = .next { s with responses := s.responses ++ [⟨.badField, []⟩] }) ∧
    (s.block.closed = false → ∀ u : Bool, usage = bitByte u → marker.toNat ≤ 63 →
      ∃ m : BitVec 6, m.toNat = marker.toNat ∧
        exec (.wrUsage usage marker) s = .next { s with
          block := { s.block with chan := { s.block.chan with usage := u, marker := m } }
          responses := s.responses ++ [⟨.ok, []⟩] })

/-- R93: WR_STOLEN2. -/
def Obligations.WrStolen2Command : Prop :=
  ∀ (flag : Byte) (s : State),
    encode (.wrStolen2 flag) = [0x33, flag] ∧
    (s.block.closed = true →
      exec (.wrStolen2 flag) s = .next { s with responses := s.responses ++ [⟨.closed, []⟩] }) ∧
    (s.block.closed = false → flag.toNat > 1 →
      exec (.wrStolen2 flag) s = .next { s with responses := s.responses ++ [⟨.badField, []⟩] }) ∧
    (s.block.closed = false → ∀ x : Bool, flag = bitByte x →
      exec (.wrStolen2 flag) s = .next { s with
        block := { s.block with stolen2 := x }
        responses := s.responses ++ [⟨.ok, []⟩] })

/-- R89: WR_FREQ accepts every 32-bit value. -/
def Obligations.WrFreqCommand : Prop :=
  ∀ (freq : Word32) (s : State),
    encode (.wrFreq freq) = 0x34 :: u32Bytes freq ∧
    (s.block.closed = true →
      exec (.wrFreq freq) s = .next { s with responses := s.responses ++ [⟨.closed, []⟩] }) ∧
    (s.block.closed = false → exec (.wrFreq freq) s = .next { s with
      block := { s.block with cell := { s.block.cell with freq := freq } }
      responses := s.responses ++ [⟨.ok, []⟩] })

/-- R92: WR_LCH accepts every 8-bit value. -/
def Obligations.WrLchCommand : Prop :=
  ∀ (lch : Byte) (s : State),
    encode (.wrLch lch) = [0x35, lch] ∧
    (s.block.closed = true →
      exec (.wrLch lch) s = .next { s with responses := s.responses ++ [⟨.closed, []⟩] }) ∧
    (s.block.closed = false → exec (.wrLch lch) s = .next { s with
      block := { s.block with chan := { s.block.chan with lch := lch } }
      responses := s.responses ++ [⟨.ok, []⟩] })

/-- R94: RD_STATE, the payload field by field, whatever CLOSED is. -/
def Obligations.RdStateCommand : Prop :=
  ∀ s : State,
    encode .rdState = [0x3F] ∧
    ∃ payload : List Byte,
      exec .rdState s = .next { s with responses := s.responses ++ [⟨.ok, payload⟩] } ∧
      payload.length = 26 + s.block.buf.length ∧
      payload = [if s.block.sync then 1 else 0] ++ u16Nat s.block.cnt ++
        [BitVec.ofNat 8 s.block.time.tn, BitVec.ofNat 8 s.block.time.fn, BitVec.ofNat 8 s.block.time.mn] ++
        [BitVec.ofNat 8 s.block.cell.cc.toNat] ++ u16Nat s.block.cell.mcc.toNat ++ u16Nat s.block.cell.mnc.toNat ++
        u32Bytes s.block.cell.scode ++ u32Bytes s.block.cell.freq ++
        [if s.block.chan.usage then 1 else 0, BitVec.ofNat 8 s.block.chan.marker.toNat, s.block.chan.lch] ++
        [if s.block.stolen2 then 1 else 0, if s.block.closed then 1 else 0] ++
        u16Nat s.block.buf.length ++ bitsBytes s.block.buf

/-- R111 and R27: RESET, whatever CLOSED is, and process start: every register at its reset value; OUTQ is empty at process
start and "OUTQ keeps its records" under RESET. -/
def Obligations.ResetCommand : Prop :=
  (∀ P : Params, (State.initial P).block =
    { buf := [], sync := false, cnt := 0, time := ⟨1, 1, 1⟩, cell := ⟨0, 0, 0, 0x00000003, 0⟩
      chan := ⟨false, 0, 0⟩, stolen2 := false, closed := false, outq := [] }) ∧
  ∀ s : State,
    encode .reset = [0x40] ∧
    exec .reset s = .next { s with
      block :=
        { buf := [], sync := false, cnt := 0, time := ⟨1, 1, 1⟩, cell := ⟨0, 0, 0, 0x00000003, 0⟩
          chan := ⟨false, 0, 0⟩, stolen2 := false, closed := false, outq := s.block.outq }
      responses := s.responses ++ [⟨.ok, []⟩] }

/-! ## The functions behind the commands -/

/-- R57's index form: the increment walks the cycle of 4320 times. -/
def Obligations.TdmaIncrementIsCyclic : Prop :=
  ∀ t : Time, timeInRange t.tn t.fn t.mn = true →
    timeIndex t < 4320 ∧ timeIndex (tdmaInc t) = (timeIndex t + 1) % 4320 ∧ tdmaInc^[4320] t = t

/-- R60's reading of the register: "tap y holds the keystream bit produced y steps earlier", with the seed as the
pre-history. -/
def Obligations.KeystreamIsTapRecurrence : Prop :=
  ∀ (taps : List Nat) (seed : Word32) (n k : Nat), (∀ y ∈ taps, 1 ≤ y ∧ y ≤ 32) → k < n →
    (keystream taps seed n)[k]? =
      some (taps.foldl (fun acc y => acc ^^
        if y ≤ k then (keystream taps seed n).getD (k - y) false else seed.getLsbD (32 - (y - k))) false)

/-- R63: `deinterleave(interleave(x)) == x` for every pair that permutes. -/
def Obligations.DeinterleaveInvertsInterleave : Prop :=
  ∀ (P : Params) (x : Bits) (k a : Nat), x.length = k → Nat.gcd a k = 1 →
    deinterleave P (interleave P x k a) k a = x

/-- R62: the map of source indices is a permutation of 0..K−1 exactly when gcd(a, K) = 1. -/
def Obligations.DeinterleaveIsPermutation : Prop :=
  ∀ (P : Params) (k a : Nat), 0 < k →
    (Nat.gcd a k = 1 ↔ ((List.range k).map (deintIndex P k a)).Perm (List.range k))

/-- R66: depuncturing a punctured vector gives it back with every unkept position erased. -/
def Obligations.DepunctureOfPuncture : Prop :=
  ∀ (P : Params) (m : Bits), P.keepFits = true → m.length % 8 = 0 →
    (puncture23 P m).length = 3 * (m.length / 8) ∧
    depuncture23 P (puncture23 P m) =
      m.mapIdx fun i x =>
        if i % 8 = P.keep0 ∨ i % 8 = P.keep1 ∨ i % 8 = P.keep2 then tritBit x else .erased

/-- R68: the decoder is maximum-likelihood. Its output has len/4 bits, and no other input of that length codes to a vector
that disagrees with fewer received trits; under every generator choice and every tie rule. -/
def Obligations.ViterbiMaximumLikelihood : Prop :=
  ∀ (P : Params) (d : Trits), d.length % 4 = 0 →
    (viterbi P d).length = d.length / 4 ∧
    ∀ u : Bits, u.length = d.length / 4 → pathMetric P d (viterbi P d) ≤ pathMetric P d u

/-- R69, the spec's derived properties under the default parameters: the decoder inverts the coder, also through the
puncturing, whose non-zero inputs have minimum output weight 1, and a vector of erasures decodes to zeros. The second is
stated for every even length. -/
def Obligations.ViterbiInvertsCoder : Prop :=
  let P := Params.default
  (∀ u : Bits, viterbi P ((convEncode P u).map tritBit) = u) ∧
  (∀ u : Bits, u.length % 2 = 0 →
    viterbi P (depuncture23 P (puncture23 P (convEncode P u))) = u ∧
    (true ∈ u → 1 ≤ (puncture23 P (convEncode P u)).count true)) ∧
  (puncture23 P (convEncode P [false, true])).count true = 1 ∧
  (∀ n : Nat, viterbi P (List.replicate (4 * n) .erased) = List.replicate n false)

/-- R73: the check passes exactly for the frame check sequence, and the plain register appended leaves 0x0000. -/
def Obligations.CrcPassesExactlyForFcs : Prop :=
  ∀ x : Bits,
    (∀ f : Bits, f.length = 16 → (crc16Check (x ++ f) (x.length + 16) = true ↔ f = fcs x)) ∧
    crcReg (x ++ (fcs x).map not) (x.length + 16) = 0x0000

/-- The decode chain inverts the reference transmitter (R77 with R61, R63, R66, R69, R73): under the default parameters a
block of any class, transmitted with any seed, decodes with its CRC passing and its information bits intact. -/
def Obligations.DecodeBlockInvertsTransmit : Prop :=
  let P := Params.default
  ∀ (c : CodeClass) (info : Bits) (seed : Word32), c ∈ [bschClass, halfClass P, fullClass P] →
    info.length = c.infoLen →
    (transmitBlock P info seed c).length = c.k ∧
    decodeBlock P (transmitBlock P info seed c) seed c = (true, info)

/-- R47 with R11: the boundary test on a full buffer counts the places where it differs from the patterns: none at the
begin, at most one at the end. -/
def Obligations.BoundaryTest : Prop :=
  ∀ (P : Params) (buf : Bits),
    let differ := fun (pat : Bits) (off : Nat) =>
      ((List.range pat.length).filter fun i => buf.getD (off + i) false != pat.getD i false).length
    P.patternsFit = true → buf.length = 510 →
    (∀ q ∈ [(P.tsBegin, 0), (P.tsEnd, 500), (P.tsSync, 214), (P.tsNorm1, 244), (P.tsNorm2, 244)],
      score buf q.1 q.2 = differ q.1 q.2) ∧
    (boundary P buf = true ↔ differ P.tsBegin 0 = 0 ∧ differ P.tsEnd 500 < 2)

/-- R48: the lowest score wins, ties go in the order SB, NDB, NDB_SF, and a winning score above 5 invalidates. -/
def Obligations.ClassifierPriority : Prop :=
  ∀ (P : Params) (v : Bits),
    let c := classifyBurst P v
    c.sSync = score v P.tsSync 214 ∧ c.sNorm1 = score v P.tsNorm1 244 ∧ c.sNorm2 = score v P.tsNorm2 244 ∧
    (c.type = some .sb ↔ c.sSync ≤ 5 ∧ c.sSync ≤ c.sNorm1 ∧ c.sSync ≤ c.sNorm2) ∧
    (c.type = some .ndb ↔ c.sNorm1 ≤ 5 ∧ c.sNorm1 < c.sSync ∧ c.sNorm1 ≤ c.sNorm2) ∧
    (c.type = some .ndbSf ↔ c.sNorm2 ≤ 5 ∧ c.sNorm2 < c.sSync ∧ c.sNorm2 < c.sNorm1) ∧
    (c.type = none ↔ 5 < c.sSync ∧ 5 < c.sNorm1 ∧ 5 < c.sNorm2)

/-- R87: the formula, and "The result holds MCC in bits 31..22, MNC in bits 21..8, CC in bits 7..2, and 1 in bits 1 and 0". -/
def Obligations.ScodeFields : Prop :=
  ∀ (cc : BitVec 6) (mcc : BitVec 10) (mnc : BitVec 14),
    (scode cc mcc mnc).toNat = (cc.toNat + mnc.toNat * 2 ^ 6 + mcc.toNat * 2 ^ 20) * 2 ^ 2 + 3 ∧
    (scode cc mcc mnc).extractLsb' 22 10 = mcc ∧ (scode cc mcc mnc).extractLsb' 8 14 = mnc ∧
    (scode cc mcc mnc).extractLsb' 2 6 = cc ∧ (scode cc mcc mnc).extractLsb' 0 2 = 3

/-! ## The splitter and the environment -/

/-- R56 with R80: an INVALID burst is dropped with an event; any other is split as its type; STOLEN2 is cleared after
either. The last clause is R80's order for an SB (R76, R81), under every environment: each block is descrambled under the
CELL.SCODE that the block before, its delivery and the environment's reaction included, has left. `AachDecidesSameSlot`
says the same of the other two types. -/
def Obligations.BurstProcessing : Prop :=
  ∀ (P : Params) (v : Bits) (b : Block),
    ((classifyBurst P v).type = none →
      processBurst P v b = { b with stolen2 := false, outq := b.outq ++ [.evt .burstInvalid b.time] }) ∧
    ((classifyBurst P v).type = some .sb → processBurst P v b = { splitSb P v b with stolen2 := false }) ∧
    ((classifyBurst P v).type = some .ndb → processBurst P v b = { splitNdb P v b with stolen2 := false }) ∧
    ((classifyBurst P v).type = some .ndbSf → processBurst P v b = { splitSf P v b with stolen2 := false }) ∧
    (let b1 := afterBlock P .bsch (decodeBlock P (extract P.layout.sbBkn1 v) 0x00000003 bschClass) b
      let b2 := deliver P .aach ((descramble P (extract P.layout.sbBbk v) b1.cell.scode).take 14) b1
      splitSb P v b = afterBlock P (match P.sbBkn2Ch with | .schHd => .schHd | .bnch => .bnch)
        (decodeBlock P (extract P.layout.sbBkn2 v) b2.cell.scode (halfClass P)) b2)

/-- R81 with R76 and R78, where the environment writes nothing: an SB appends BKN1's delivery under seed 0x00000003, the
AACH's, and BKN2's under CELL.SCODE, all at TIME, and changes nothing else but STOLEN2. -/
def Obligations.SbRecords : Prop :=
  ∀ (s : State) (v : Bits), s.block.closed = false → s.params.env = .null → s.params.layout = Params.default.layout →
    v.length = 510 →
    let P := s.params
    let b := s.block
    exec (.split 0x00 (bitsBytes v)) s = .next { s with
      block := { b with
        stolen2 := false
        outq := b.outq ++ delivered .bsch b.time (decodeBlock P (slice v 94 214) 0x00000003 bschClass) ++
          [.dlv .aach b.time ((descramble P (slice v 252 282) b.cell.scode).take 14)] ++
          delivered (match P.sbBkn2Ch with | .schHd => .schHd | .bnch => .bnch) b.time
            (decodeBlock P (slice v 282 498) b.cell.scode (halfClass P)) }
      responses := s.responses ++ [⟨.ok, []⟩] }

/-- R82 and R84, where the environment writes nothing: an NDB appends the AACH's delivery and then, in traffic mode, one
traffic record of 114, 114, 114 and 90 soft values without a CRC, and otherwise the SCH_F delivery if its CRC passes. -/
def Obligations.NdbRecords : Prop :=
  ∀ (s : State) (v : Bits), s.block.closed = false → s.params.env = .null → s.params.layout = Params.default.layout →
    v.length = 510 →
    let P := s.params
    let b := s.block
    let x := slice v 14 230 ++ slice v 282 498
    let y := descramble P x b.cell.scode
    let soft := fun w : Bits => w.map fun z => if z then P.softOne else P.softZero
    exec (.split 0x01 (bitsBytes v)) s = .next { s with
      block := { b with
        stolen2 := false
        outq := b.outq ++ [.dlv .aach b.time ((descramble P (slice v 230 244 ++ slice v 266 282) b.cell.scode).take 14)] ++
          if b.chan.usage then
            [.tch b.time (soft (slice y 0 114)) (soft (slice y 114 228)) (soft (slice y 228 342)) (soft (slice y 342 432))]
          else delivered .schF b.time (decodeBlock P x b.cell.scode (fullClass P)) }
      responses := s.responses ++ [⟨.ok, []⟩] }

/-- R83, where the environment writes nothing: an NDB_SF appends the AACH's delivery and the two half slots, to STCH in
traffic mode and SCH_HD otherwise; in traffic mode an unstolen second half is dropped with an event, or delivered
undecoded, as P_SF_UNSTOLEN says. -/
def Obligations.SfRecords : Prop :=
  ∀ (s : State) (v : Bits), s.block.closed = false → s.params.env = .null → s.params.layout = Params.default.layout →
    v.length = 510 →
    let P := s.params
    let b := s.block
    let ch : Channel := if b.chan.usage then .stch else .schHd
    exec (.split 0x02 (bitsBytes v)) s = .next { s with
      block := { b with
        stolen2 := false
        outq := b.outq ++ [.dlv .aach b.time ((descramble P (slice v 230 244 ++ slice v 266 282) b.cell.scode).take 14)] ++
          delivered ch b.time (decodeBlock P (slice v 14 230) b.cell.scode (halfClass P)) ++
          if b.chan.usage = true ∧ b.stolen2 = false then
            match P.sfUnstolen with
            | .drop => [.evt .bkn2Dropped b.time]
            | .tchHalf => [.dlv .tchHalf b.time (descramble P (slice v 282 498) b.cell.scode)]
          else delivered ch b.time (decodeBlock P (slice v 282 498) b.cell.scode (halfClass P)) }
      responses := s.responses ++ [⟨.ok, []⟩] }

/-- From R95: what the environment can do inside a delivery, whatever P_ENV is: it appends to OUTQ and writes CELL, TIME,
CHAN and STOLEN2; BUF, SYNC, CNT and CLOSED are out of its reach. That TIME stays in its ranges, that SCODE stays the
function of the cell's fields and that a delivery's events follow it are the spec's inferences (R18, R19, R102). The list
is applied in order: a write whose fields fit has its change, another only its event; that P_ENV is asked once, on the state
after the emission (R79), is the model's reading (notes/assumptions/14.md). -/
def Obligations.EnvironmentReach : Prop :=
  ∀ (P : Params) (ch : Channel) (bits : Bits) (b : Block),
    let r := Record.dlv ch b.time bits
    let b' := deliver P ch bits b
    b'.buf = b.buf ∧ b'.sync = b.sync ∧ b'.cnt = b.cnt ∧ b'.closed = b.closed ∧
    (∃ events : List Record, b'.outq = b.outq ++ r :: events ∧ ∀ e ∈ events, ∃ t, e = .evt .envWriteRejected t) ∧
    (b.TimeOk → b'.TimeOk) ∧ (b.CellOk → b'.CellOk) ∧
    (P.env = .null → b' = { b with outq := b.outq ++ [r] }) ∧
    (b' = (envWrites P r { b with outq := b.outq ++ [r] }).foldl
      (fun c w =>
        if w.fieldsFit then w.apply c else { c with outq := c.outq ++ [.evt .envWriteRejected c.time] })
      { b with outq := b.outq ++ [r] })

/-- R96, R116 and R119 under ENV_REF: what each delivery makes it write; and inside an SB the writes made for the BSCH
delivery reach the same burst's later blocks, the AACH and BKN2, which are descrambled under the scode of the SYNC PDU's
colour code, MCC and MNC and stamped with the TIME it loads. -/
def Obligations.RefEnvironmentSetsCellWithinBurst : Prop :=
  ∀ (P : Params) (b : Block), P.env = .ref →
    -- the AACH: WR_USAGE(0, 0), or the usage and the marker of its six bits
    (∀ a : Bits, a.length = 14 →
      deliver P .aach a b = afterRefAach a b ∧
      (intOf (slice a 0 2) = 0 → refUsage a = false ∧ refMarker a = 0) ∧
      (intOf (slice a 0 2) ≠ 0 →
        (refUsage a = true ↔ 4 ≤ intOf (slice a 2 8)) ∧ (refMarker a).toNat = intOf (slice a 2 8))) ∧
    -- any other delivery but the BSCH's: nothing
    (∀ (ch : Channel) (v : Bits), ch ≠ .aach → ch ≠ .bsch →
      deliver P ch v b = { b with outq := b.outq ++ [.dlv ch b.time v] }) ∧
    -- the BSCH: WR_CELL, then WR_TIME
    (∀ v : Bits, v.length = 60 →
      let b' := deliver P .bsch v b
      let cc := BitVec.ofNat 6 (intOf (slice v 4 10))
      let mcc := BitVec.ofNat 10 (intOf (slice v 31 41))
      let mnc := BitVec.ofNat 14 (intOf (slice v 41 55))
      let fn := intOf (slice v 12 17)
      let mn := intOf (slice v 17 23)
      let cell : Cell := ⟨cc, mcc, mnc, scode cc mcc mnc, b.cell.freq⟩
      cc.toNat = intOf (slice v 4 10) ∧ mcc.toNat = intOf (slice v 31 41) ∧ mnc.toNat = intOf (slice v 41 55) ∧
      (1 ≤ fn ∧ fn ≤ 18 ∧ 1 ≤ mn ∧ mn ≤ 60 →
        b' = { b with
          cell := cell
          time := ⟨intOf (slice v 10 12) + 1, fn, mn⟩
          outq := b.outq ++ [.dlv .bsch b.time v] }) ∧
      (¬ (1 ≤ fn ∧ fn ≤ 18 ∧ 1 ≤ mn ∧ mn ≤ 60) →
        b' = { b with cell := cell, outq := b.outq ++ [.dlv .bsch b.time v, .evt .envWriteRejected b.time] }) ∧
      -- an SB whose BKN1 decodes to `v`: the AACH and BKN2 under the new SCODE, at the new TIME
      ∀ burst : Bits, decodeBlock P (extract P.layout.sbBkn1 burst) 0x00000003 bschClass = (true, v) →
        let a := (descramble P (extract P.layout.sbBbk burst) (scode cc mcc mnc)).take 14
        splitSb P burst b = { afterRefAach a b' with
          outq := b'.outq ++ [.dlv .aach b'.time a] ++
            delivered (match P.sbBkn2Ch with | .schHd => .schHd | .bnch => .bnch) b'.time
              (decodeBlock P (extract P.layout.sbBkn2 burst) (scode cc mcc mnc) (halfClass P)) })

/-- R117, R82 and R83, under every environment: the AACH is processed first, and the CHAN.USAGE that its delivery leaves
decides the routing of the same burst. An NDB ends in the traffic record of its descrambled slot, or in the SCH_F delivery if
the CRC passes. Each half of an NDB_SF is descrambled and routed by the CELL.SCODE and CHAN.USAGE that stand when it is
reached: the second half reads CHAN.USAGE and STOLEN2 after the first half's delivery and the environment's reaction to it,
and the STOLEN2 so read is cleared at the end, so it affects only that half (R118). -/
def Obligations.AachDecidesSameSlot : Prop :=
  ∀ (P : Params) (v : Bits) (b : Block),
    let b1 := deliver P .aach ((descramble P (extract P.layout.ndBbk v) b.cell.scode).take 14) b
    -- NDB
    (let x := extract P.layout.ndBkn1 v ++ extract P.layout.ndBkn2 v
      let y := descramble P x b1.cell.scode
      let soft := fun w : Bits => w.map fun z => if z then P.softOne else P.softZero
      (b1.chan.usage = true →
        splitBurst P .ndb v b = { b1 with
          stolen2 := false
          outq := b1.outq ++ [.tch b1.time
            (soft (slice y 0 114)) (soft (slice y 114 228)) (soft (slice y 228 342)) (soft (slice y 342 432))] }) ∧
      (b1.chan.usage = false →
        splitBurst P .ndb v b =
          { afterBlock P .schF (decodeBlock P x b1.cell.scode (fullClass P)) b1 with stolen2 := false })) ∧
    -- NDB_SF: `b2` stands after the first half
    (let b2 := afterBlock P (if b1.chan.usage then .stch else .schHd)
        (decodeBlock P (extract P.layout.ndBkn1 v) b1.cell.scode (halfClass P)) b1
      let x2 := extract P.layout.ndBkn2 v
      (b2.chan.usage = true → b2.stolen2 = true →
        splitBurst P .ndbSf v b =
          { afterBlock P .stch (decodeBlock P x2 b2.cell.scode (halfClass P)) b2 with stolen2 := false }) ∧
      (b2.chan.usage = false →
        splitBurst P .ndbSf v b =
          { afterBlock P .schHd (decodeBlock P x2 b2.cell.scode (halfClass P)) b2 with stolen2 := false }) ∧
      (b2.chan.usage = true → b2.stolen2 = false → P.sfUnstolen = .drop →
        splitBurst P .ndbSf v b = { b2 with stolen2 := false, outq := b2.outq ++ [.evt .bkn2Dropped b2.time] }) ∧
      (b2.chan.usage = true → b2.stolen2 = false → P.sfUnstolen = .tchHalf →
        splitBurst P .ndbSf v b =
          { deliver P .tchHalf (descramble P x2 b2.cell.scode) b2 with stolen2 := false }))

/-- R118: STOLEN2 is clear after every SPLIT and after every RX_SYMBOL that fills the buffer and processes it; an RX_SYMBOL
that processes no burst leaves it. -/
def Obligations.Stolen2Lifetime : Prop :=
  ∀ (s t : State),
    (∀ (ty : Byte) (v : Bits), s.block.closed = false → ty.toNat ≤ 2 → exec (.split ty (bitsBytes v)) s = .next t →
      t.block.stolen2 = false) ∧
    (∀ x : Bool, s.block.closed = false → s.block.buf.length = 509 →
      boundary s.params (s.block.buf ++ [x]) = true → exec (.rxSymbol (bitByte x)) s = .next t →
      t.block.stolen2 = false) ∧
    (∀ x : Bool, s.block.closed = false → s.block.buf.length = 509 → s.block.sync = true →
      (if s.params.countdown = .perSymbol ∧ s.block.cnt > 0 then s.block.cnt - 1 else s.block.cnt) % 510 = 0 →
      exec (.rxSymbol (bitByte x)) s = .next t → t.block.stolen2 = false) ∧
    (∀ x : Bool, s.block.buf.length < 509 ∨ (s.block.sync = false ∧ boundary s.params (s.block.buf ++ [x]) = false) →
      exec (.rxSymbol (bitByte x)) s = .next t → t.block.stolen2 = s.block.stolen2)

/-- R119, where the environment writes nothing: every record of a confirmed burst carries the advanced TIME. -/
def Obligations.BoundaryStampsAdvancedTime : Prop :=
  ∀ (s t : State) (x : Bool), s.params.env = .null → s.block.closed = false → s.block.buf.length = 509 →
    boundary s.params (s.block.buf ++ [x]) = true → exec (.rxSymbol (bitByte x)) s = .next t →
    t.block.time = tdmaInc s.block.time ∧
    ∃ records : List Record, t.block.outq = s.block.outq ++ records ∧ records ≠ [] ∧
      ∀ r ∈ records, recordTime r = tdmaInc s.block.time

/-- The frame of the two commands that process bursts, under every environment: SPLIT leaves BUF, SYNC, CNT and CLOSED;
RX_SYMBOL leaves CLOSED, and a symbol that does not fill the buffer leaves TIME, CELL, CHAN, SYNC and OUTQ too; neither
takes a record back. Where the environment writes nothing, RX_SYMBOL never changes CELL or CHAN. -/
def Obligations.BurstCommandFrame : Prop :=
  ∀ (s t : State),
    (∀ ty d, exec (.split ty d) s = .next t →
      t.block.buf = s.block.buf ∧ t.block.sync = s.block.sync ∧ t.block.cnt = s.block.cnt ∧
      t.block.closed = s.block.closed ∧ s.block.outq <+: t.block.outq) ∧
    (∀ sym, exec (.rxSymbol sym) s = .next t →
      t.block.closed = s.block.closed ∧ s.block.outq <+: t.block.outq ∧
      (s.block.buf.length < 509 →
        t.block.time = s.block.time ∧ t.block.cell = s.block.cell ∧ t.block.chan = s.block.chan ∧
        t.block.sync = s.block.sync ∧ t.block.outq = s.block.outq) ∧
      (s.params.env = .null → t.block.cell = s.block.cell ∧ t.block.chan = s.block.chan))

/-! ## Whole-machine rules -/

/-- The state after reset is safe. -/
def Obligations.ResetStateIsSafe : Prop := State.reset.Safe

/-- The invariant of Safety.lean (R15, R17, R18, R19, R55, R59) is kept by every step from every state that has it, under
every parameter instance and every environment. -/
def Obligations.StepKeepsSafe : Prop := ∀ s t : State, s.Safe → step s = .next t → t.Safe

/-- R55 item 2, derived: under `literal`, SYNC once set stays set until RESET, and no step emits SYNC_LOST. -/
def Obligations.LiteralNeverLosesSync : Prop :=
  ∀ s t : State, s.Safe → s.params.countdown = .literal → step s = .next t →
    (s.block.cnt = 0 ∨ s.block.cnt = 25500) ∧
    (s.block.sync = true → t.block.sync = true ∨ ∃ rest, decodeFrame s.port = .command .reset rest) ∧
    ∃ records : List Record, t.block.outq = s.block.outq ++ records ∧ ∀ time, Record.evt .syncLost time ∉ records

/-- Nothing is taken back: a step consumes a non-empty part of the port, returns exactly one response, only appends to OUTQ
(R23, R111) and never changes the parameters (R14, R110). -/
def Obligations.StepOnlyAppends : Prop :=
  ∀ s t : State, step s = .next t →
    (∃ frame : List Byte, frame ≠ [] ∧ s.port = frame ++ t.port) ∧
    (∃ r : Response, t.responses = s.responses ++ [r]) ∧
    s.block.outq <+: t.block.outq ∧ t.params = s.params

/-- R113 and R120: a run of any bytes ends with every whole frame answered, and with at most one incomplete frame left at the
port, which has no response. -/
def Obligations.RunAnswersEveryFrame : Prop :=
  ∀ (P : Params) (bytes : List Byte), P.valid = true →
    let s := runBytes P bytes
    decodeFrame s.port = .incomplete ∧
    ∃ frames : List (List Byte), bytes = frames.flatten ++ s.port ∧ s.responses.length = frames.length ∧
      ∀ f ∈ frames, frameLength f = f.length

/-- R33: the primitives and CLASSIFY read no state except CLOSED: on two states that agree on CLOSED and on the parameters
they give the same response, and each leaves its state's block as it was. -/
def Obligations.PrimitivesReadOnlyClosed : Prop :=
  ∀ (i : Instr) (s s' : State), isPrimitive i → s.block.closed = s'.block.closed → s.params = s'.params →
    ∃ r : Response,
      exec i s = .next { s with responses := s.responses ++ [r] } ∧
      exec i s' = .next { s' with responses := s'.responses ++ [r] }

/-- R46: the five commands of CHAIN, run one after another, each take the `out` vector of the response before; the last
response is the CRC verdict of the whole chain. -/
def Obligations.ChainFeedsResponses : Prop :=
  ∀ (s : State) (seed : Word32) (k a len : Word16) (v : Bits), s.block.closed = false →
    v.length = k.toNat → k.toNat ≠ 0 → Nat.gcd a.toNat k.toNat = 1 → k.toNat % 3 = 0 → 8 * k.toNat / 3 ≤ 65535 →
    len.toNat ≤ 2 * (k.toNat / 3) →
    s.port = assemble (chain s.params seed k a len v) → s.params.valid = true →
    ∃ (o1 o2 o4 : Bits) (o3 : Trits),
      chain s.params seed k a len v =
        [.descramble seed (bitsBytes v), .deinterleave k a (bitsBytes o1), .depuncture23 (bitsBytes o2),
         .viterbi (tritsBytes o3), .crc16Check len (bitsBytes o4)] ∧
      run 5 s = { s with
        port := []
        responses := s.responses ++
          [⟨.ok, u16Nat o1.length ++ bitsBytes o1⟩, ⟨.ok, u16Nat o2.length ++ bitsBytes o2⟩,
           ⟨.ok, u16Nat o3.length ++ tritsBytes o3⟩, ⟨.ok, u16Nat o4.length ++ bitsBytes o4⟩,
           ⟨.ok, [if crc16Check (decodeChain s.params v seed ⟨k.toNat, a.toNat, len.toNat, 0⟩) len.toNat then 1 else 0]⟩] }
end

