-- ==== Sys2Proof/Laws/State.lean ====
section
/-! SUPPORT. One lemma per field per update of `State` and `Block`, each true by rfl, and the frame of `Write.apply`. -/

namespace Sys2Proof.Machine

/-! ## State -/

@[simp] theorem State.withBlock_block (s : State) (b : Block) : (s.withBlock b).block = b := rfl
@[simp] theorem State.withBlock_port (s : State) (b : Block) : (s.withBlock b).port = s.port := rfl
@[simp] theorem State.withBlock_responses (s : State) (b : Block) : (s.withBlock b).responses = s.responses := rfl
@[simp] theorem State.withBlock_params (s : State) (b : Block) : (s.withBlock b).params = s.params := rfl
@[simp] theorem State.withPort_block (s : State) (l : List Byte) : (s.withPort l).block = s.block := rfl
@[simp] theorem State.withPort_port (s : State) (l : List Byte) : (s.withPort l).port = l := rfl
@[simp] theorem State.withPort_responses (s : State) (l : List Byte) : (s.withPort l).responses = s.responses := rfl
@[simp] theorem State.withPort_params (s : State) (l : List Byte) : (s.withPort l).params = s.params := rfl
@[simp] theorem State.respond_block (s : State) (r : Response) : (s.respond r).block = s.block := rfl
@[simp] theorem State.respond_port (s : State) (r : Response) : (s.respond r).port = s.port := rfl
@[simp] theorem State.respond_responses (s : State) (r : Response) :
    (s.respond r).responses = s.responses ++ [r] := rfl
@[simp] theorem State.respond_params (s : State) (r : Response) : (s.respond r).params = s.params := rfl
@[simp] theorem raiseFault_block (c : Status) (s : State) : (raiseFault c s).block = s.block := rfl
@[simp] theorem raiseFault_port (c : Status) (s : State) : (raiseFault c s).port = s.port := rfl
@[simp] theorem raiseFault_responses (c : Status) (s : State) :
    (raiseFault c s).responses = s.responses ++ [⟨c, []⟩] := rfl
@[simp] theorem raiseFault_params (c : Status) (s : State) : (raiseFault c s).params = s.params := rfl

/-! ## Block: emission -/

@[simp] theorem Block.emit_buf (b : Block) (r : Record) : (b.emit r).buf = b.buf := rfl
@[simp] theorem Block.emit_sync (b : Block) (r : Record) : (b.emit r).sync = b.sync := rfl
@[simp] theorem Block.emit_cnt (b : Block) (r : Record) : (b.emit r).cnt = b.cnt := rfl
@[simp] theorem Block.emit_time (b : Block) (r : Record) : (b.emit r).time = b.time := rfl
@[simp] theorem Block.emit_cell (b : Block) (r : Record) : (b.emit r).cell = b.cell := rfl
@[simp] theorem Block.emit_chan (b : Block) (r : Record) : (b.emit r).chan = b.chan := rfl
@[simp] theorem Block.emit_stolen2 (b : Block) (r : Record) : (b.emit r).stolen2 = b.stolen2 := rfl
@[simp] theorem Block.emit_closed (b : Block) (r : Record) : (b.emit r).closed = b.closed := rfl
@[simp] theorem Block.emit_outq (b : Block) (r : Record) : (b.emit r).outq = b.outq ++ [r] := rfl
@[simp] theorem Block.event_buf (b : Block) (e : Event) : (b.event e).buf = b.buf := rfl
@[simp] theorem Block.event_sync (b : Block) (e : Event) : (b.event e).sync = b.sync := rfl
@[simp] theorem Block.event_cnt (b : Block) (e : Event) : (b.event e).cnt = b.cnt := rfl
@[simp] theorem Block.event_time (b : Block) (e : Event) : (b.event e).time = b.time := rfl
@[simp] theorem Block.event_cell (b : Block) (e : Event) : (b.event e).cell = b.cell := rfl
@[simp] theorem Block.event_chan (b : Block) (e : Event) : (b.event e).chan = b.chan := rfl
@[simp] theorem Block.event_stolen2 (b : Block) (e : Event) : (b.event e).stolen2 = b.stolen2 := rfl
@[simp] theorem Block.event_closed (b : Block) (e : Event) : (b.event e).closed = b.closed := rfl
@[simp] theorem Block.event_outq (b : Block) (e : Event) : (b.event e).outq = b.outq ++ [.evt e b.time] := rfl

/-! ## Block: register writes -/

@[simp] theorem Block.withTime_buf (b : Block) (t : Time) : (b.withTime t).buf = b.buf := rfl
@[simp] theorem Block.withTime_sync (b : Block) (t : Time) : (b.withTime t).sync = b.sync := rfl
@[simp] theorem Block.withTime_cnt (b : Block) (t : Time) : (b.withTime t).cnt = b.cnt := rfl
@[simp] theorem Block.withTime_time (b : Block) (t : Time) : (b.withTime t).time = t := rfl
@[simp] theorem Block.withTime_cell (b : Block) (t : Time) : (b.withTime t).cell = b.cell := rfl
@[simp] theorem Block.withTime_chan (b : Block) (t : Time) : (b.withTime t).chan = b.chan := rfl
@[simp] theorem Block.withTime_stolen2 (b : Block) (t : Time) : (b.withTime t).stolen2 = b.stolen2 := rfl
@[simp] theorem Block.withTime_closed (b : Block) (t : Time) : (b.withTime t).closed = b.closed := rfl
@[simp] theorem Block.withTime_outq (b : Block) (t : Time) : (b.withTime t).outq = b.outq := rfl
@[simp] theorem Block.withBuf_buf (b : Block) (v : Bits) : (b.withBuf v).buf = v := rfl
@[simp] theorem Block.withBuf_sync (b : Block) (v : Bits) : (b.withBuf v).sync = b.sync := rfl
@[simp] theorem Block.withBuf_cnt (b : Block) (v : Bits) : (b.withBuf v).cnt = b.cnt := rfl
@[simp] theorem Block.withBuf_time (b : Block) (v : Bits) : (b.withBuf v).time = b.time := rfl
@[simp] theorem Block.withBuf_cell (b : Block) (v : Bits) : (b.withBuf v).cell = b.cell := rfl
@[simp] theorem Block.withBuf_chan (b : Block) (v : Bits) : (b.withBuf v).chan = b.chan := rfl
@[simp] theorem Block.withBuf_stolen2 (b : Block) (v : Bits) : (b.withBuf v).stolen2 = b.stolen2 := rfl
@[simp] theorem Block.withBuf_closed (b : Block) (v : Bits) : (b.withBuf v).closed = b.closed := rfl
@[simp] theorem Block.withBuf_outq (b : Block) (v : Bits) : (b.withBuf v).outq = b.outq := rfl
@[simp] theorem Block.withCnt_buf (b : Block) (n : Nat) : (b.withCnt n).buf = b.buf := rfl
@[simp] theorem Block.withCnt_sync (b : Block) (n : Nat) : (b.withCnt n).sync = b.sync := rfl
@[simp] theorem Block.withCnt_cnt (b : Block) (n : Nat) : (b.withCnt n).cnt = n := rfl
@[simp] theorem Block.withCnt_time (b : Block) (n : Nat) : (b.withCnt n).time = b.time := rfl
@[simp] theorem Block.withCnt_cell (b : Block) (n : Nat) : (b.withCnt n).cell = b.cell := rfl
@[simp] theorem Block.withCnt_chan (b : Block) (n : Nat) : (b.withCnt n).chan = b.chan := rfl
@[simp] theorem Block.withCnt_stolen2 (b : Block) (n : Nat) : (b.withCnt n).stolen2 = b.stolen2 := rfl
@[simp] theorem Block.withCnt_closed (b : Block) (n : Nat) : (b.withCnt n).closed = b.closed := rfl
@[simp] theorem Block.withCnt_outq (b : Block) (n : Nat) : (b.withCnt n).outq = b.outq := rfl
@[simp] theorem Block.withSync_buf (b : Block) (x : Bool) : (b.withSync x).buf = b.buf := rfl
@[simp] theorem Block.withSync_sync (b : Block) (x : Bool) : (b.withSync x).sync = x := rfl
@[simp] theorem Block.withSync_cnt (b : Block) (x : Bool) : (b.withSync x).cnt = b.cnt := rfl
@[simp] theorem Block.withSync_time (b : Block) (x : Bool) : (b.withSync x).time = b.time := rfl
@[simp] theorem Block.withSync_cell (b : Block) (x : Bool) : (b.withSync x).cell = b.cell := rfl
@[simp] theorem Block.withSync_chan (b : Block) (x : Bool) : (b.withSync x).chan = b.chan := rfl
@[simp] theorem Block.withSync_stolen2 (b : Block) (x : Bool) : (b.withSync x).stolen2 = b.stolen2 := rfl
@[simp] theorem Block.withSync_closed (b : Block) (x : Bool) : (b.withSync x).closed = b.closed := rfl
@[simp] theorem Block.withSync_outq (b : Block) (x : Bool) : (b.withSync x).outq = b.outq := rfl
@[simp] theorem Block.withStolen2_buf (b : Block) (x : Bool) : (b.withStolen2 x).buf = b.buf := rfl
@[simp] theorem Block.withStolen2_sync (b : Block) (x : Bool) : (b.withStolen2 x).sync = b.sync := rfl
@[simp] theorem Block.withStolen2_cnt (b : Block) (x : Bool) : (b.withStolen2 x).cnt = b.cnt := rfl
@[simp] theorem Block.withStolen2_time (b : Block) (x : Bool) : (b.withStolen2 x).time = b.time := rfl
@[simp] theorem Block.withStolen2_cell (b : Block) (x : Bool) : (b.withStolen2 x).cell = b.cell := rfl
@[simp] theorem Block.withStolen2_chan (b : Block) (x : Bool) : (b.withStolen2 x).chan = b.chan := rfl
@[simp] theorem Block.withStolen2_stolen2 (b : Block) (x : Bool) : (b.withStolen2 x).stolen2 = x := rfl
@[simp] theorem Block.withStolen2_closed (b : Block) (x : Bool) : (b.withStolen2 x).closed = b.closed := rfl
@[simp] theorem Block.withStolen2_outq (b : Block) (x : Bool) : (b.withStolen2 x).outq = b.outq := rfl
@[simp] theorem Block.withClosed_buf (b : Block) (x : Bool) : (b.withClosed x).buf = b.buf := rfl
@[simp] theorem Block.withClosed_sync (b : Block) (x : Bool) : (b.withClosed x).sync = b.sync := rfl
@[simp] theorem Block.withClosed_cnt (b : Block) (x : Bool) : (b.withClosed x).cnt = b.cnt := rfl
@[simp] theorem Block.withClosed_time (b : Block) (x : Bool) : (b.withClosed x).time = b.time := rfl
@[simp] theorem Block.withClosed_cell (b : Block) (x : Bool) : (b.withClosed x).cell = b.cell := rfl
@[simp] theorem Block.withClosed_chan (b : Block) (x : Bool) : (b.withClosed x).chan = b.chan := rfl
@[simp] theorem Block.withClosed_stolen2 (b : Block) (x : Bool) : (b.withClosed x).stolen2 = b.stolen2 := rfl
@[simp] theorem Block.withClosed_closed (b : Block) (x : Bool) : (b.withClosed x).closed = x := rfl
@[simp] theorem Block.withClosed_outq (b : Block) (x : Bool) : (b.withClosed x).outq = b.outq := rfl

/-! ## State writes: what none of them touches -/

@[simp] theorem Write.apply_buf (b : Block) (w : Write) : (w.apply b).buf = b.buf := by cases w <;> rfl
@[simp] theorem Write.apply_sync (b : Block) (w : Write) : (w.apply b).sync = b.sync := by cases w <;> rfl
@[simp] theorem Write.apply_cnt (b : Block) (w : Write) : (w.apply b).cnt = b.cnt := by cases w <;> rfl
@[simp] theorem Write.apply_closed (b : Block) (w : Write) : (w.apply b).closed = b.closed := by cases w <;> rfl
@[simp] theorem Write.apply_outq (b : Block) (w : Write) : (w.apply b).outq = b.outq := by cases w <;> rfl

end Sys2Proof.Machine
end

