-- ==== Sys2Proof/Laws/Outcome.lean ====
section
/-! SUPPORT. How a command ends, said once: every meaning is `finish` of its result, `finish` answers a next state with one
more response, and the checks before a result. -/

namespace Sys2Proof.Machine

/-- What a command comes to on a block, before its response is returned. -/
def resultOf (P : Params) (i : Instr) (b : Block) : Result :=
  match i with
  | .rxSymbol sym => rxSymbolCommand P sym b
  | .eos => eosCommand b
  | .tdmaInc => tdmaIncCommand b
  | .descramble seed d => descrambleCommand P seed d b
  | .deinterleave k a d => deinterleaveCommand P k.toNat a.toNat d b
  | .depuncture23 d => depuncture23Command P d b
  | .viterbi d => viterbiCommand P d b
  | .rmDecode d => rmDecodeCommand d b
  | .crc16Check len d => crc16CheckCommand len.toNat d b
  | .classify d => classifyCommand P d b
  | .split ty d => splitCommand P ty d b
  | .wrCell cc mcc mnc => writeCommand (.cell cc mcc mnc) b
  | .wrTime tn fn mn => writeCommand (.time tn fn mn) b
  | .wrUsage usage marker => writeCommand (.usage usage marker) b
  | .wrStolen2 flag => writeCommand (.stolen2 flag) b
  | .wrFreq freq => writeCommand (.freq freq) b
  | .wrLch lch => writeCommand (.lch lch) b
  | .rdState => rdStateCommand b
  | .reset => resetCommand b

/-- Every meaning is the end of its command's result. -/
theorem exec_eq_finish (i : Instr) (s : State) : exec i s = finish s (resultOf s.params i s.block) := by
  cases i <;> rfl

theorem finish_ok (s : State) (b : Block) (p : List Byte) :
    finish s (.ok (b, p)) = .next ((s.withBlock b).respond ⟨.ok, p⟩) := rfl

theorem finish_error (s : State) (c : Status) : finish s (.error c) = .next (raiseFault c s) := rfl

/-- `finish` never stops the machine: it answers one response, and the block changes only with status OK. -/
theorem finish_cases (s : State) (r : Result) :
    (∃ b p, r = .ok (b, p) ∧ finish s r = .next ((s.withBlock b).respond ⟨.ok, p⟩)) ∨
    (∃ c, r = .error c ∧ finish s r = .next (raiseFault c s)) := by
  cases r with
  | error c => exact .inr ⟨c, rfl, rfl⟩
  | ok bp => exact .inl ⟨bp.1, bp.2, rfl, rfl⟩

@[simp] theorem unlessClosed_open {b : Block} (h : b.closed = false) (r : Result) : unlessClosed b r = r := by
  simp [unlessClosed, h]

@[simp] theorem unlessClosed_closed {b : Block} (h : b.closed = true) (r : Result) :
    unlessClosed b r = .error .closed := by
  simp [unlessClosed, h]

theorem unlessClosed_eq_ok {b : Block} {r : Result} {x : Block × List Byte} (h : unlessClosed b r = .ok x) :
    b.closed = false ∧ r = .ok x := by
  unfold unlessClosed at h
  split at h
  · cases h
  · exact ⟨by simp_all, h⟩

/-! ## Element vectors -/

@[simp] theorem bitOf_bitByte (x : Bool) : bitOf (bitByte x) = some x := by cases x <;> decide

@[simp] theorem bitsOf_bitsBytes (v : Bits) : bitsOf (bitsBytes v) = some v := by
  induction v with
  | nil => rfl
  | cons x v ih => simp [bitsBytes, bitsOf] at ih ⊢; simp [ih]

@[simp] theorem tritOf_tritByte (x : Trit) : tritOf (tritByte x) = some x := by cases x <;> decide

@[simp] theorem tritsOf_tritsBytes (v : Trits) : tritsOf (tritsBytes v) = some v := by
  induction v with
  | nil => rfl
  | cons x v ih => simp [tritsBytes, tritsOf] at ih ⊢; simp [ih]

@[simp] theorem bitsBytes_length (v : Bits) : (bitsBytes v).length = v.length := by simp [bitsBytes]

@[simp] theorem tritsBytes_length (v : Trits) : (tritsBytes v).length = v.length := by simp [tritsBytes]

/-- A byte is a bit element exactly when it is at most 1. -/
theorem bitOf_eq_none_iff (b : Byte) : bitOf b = none ↔ 1 < b.toNat := by
  revert b; decide

/-- A byte is a trit element exactly when it is at most 2. -/
theorem tritOf_eq_none_iff (b : Byte) : tritOf b = none ↔ 2 < b.toNat := by
  revert b; decide

/-- A bit vector operand is rejected exactly when one of its elements is outside {0, 1}. -/
theorem bitsOf_eq_none_iff (d : List Byte) : bitsOf d = none ↔ ∃ b ∈ d, 1 < b.toNat := by
  induction d with
  | nil => simp [bitsOf]
  | cons b d ih =>
    simp only [bitsOf]
    cases hb : bitOf b with
    | none => simpa using .inl ((bitOf_eq_none_iff b).1 hb)
    | some x =>
      have hn : ¬ 1 < b.toNat := fun h => by simp [(bitOf_eq_none_iff b).2 h] at hb
      cases hd : bitsOf d with
      | none => simpa [hn] using ih.1 hd
      | some xs => simp only [List.mem_cons, exists_eq_or_imp, hn, false_or]; simpa [hd] using ih

/-- A trit vector operand is rejected exactly when one of its elements is outside {0, 1, 2}. -/
theorem tritsOf_eq_none_iff (d : List Byte) : tritsOf d = none ↔ ∃ b ∈ d, 2 < b.toNat := by
  induction d with
  | nil => simp [tritsOf]
  | cons b d ih =>
    simp only [tritsOf]
    cases hb : tritOf b with
    | none => simpa using .inl ((tritOf_eq_none_iff b).1 hb)
    | some x =>
      have hn : ¬ 2 < b.toNat := fun h => by simp [(tritOf_eq_none_iff b).2 h] at hb
      cases hd : tritsOf d with
      | none => simpa [hn] using ih.1 hd
      | some xs => simp only [List.mem_cons, exists_eq_or_imp, hn, false_or]; simpa [hd] using ih

end Sys2Proof.Machine
end

