-- ==== Sys2Proof/Laws/Burst.lean ====
section
/-! SUPPORT. What the processing of a burst can do, said once: `Delivers b b'` holds of every emission, environment write,
delivery and splitting routine, under every parameter instance. -/

namespace Sys2Proof.Machine

/-- `b'` comes from `b` by emissions and environment writes: BUF, SYNC, CNT and CLOSED are untouched, records are only
appended to OUTQ, and TIME's ranges and the SCODE equation are kept. -/
structure Delivers (b b' : Block) : Prop where
  buf : b'.buf = b.buf
  sync : b'.sync = b.sync
  cnt : b'.cnt = b.cnt
  closed : b'.closed = b.closed
  outq : b.outq <+: b'.outq
  timeOk : b.TimeOk → b'.TimeOk
  cellOk : b.CellOk → b'.CellOk

theorem Delivers.refl (b : Block) : Delivers b b := ⟨rfl, rfl, rfl, rfl, List.prefix_refl _, id, id⟩

theorem Delivers.trans {a b c : Block} (h : Delivers a b) (k : Delivers b c) : Delivers a c :=
  ⟨k.buf.trans h.buf, k.sync.trans h.sync, k.cnt.trans h.cnt, k.closed.trans h.closed, h.outq.trans k.outq,
   k.timeOk ∘ h.timeOk, k.cellOk ∘ h.cellOk⟩

theorem emit_delivers (b : Block) (r : Record) : Delivers b (b.emit r) :=
  ⟨rfl, rfl, rfl, rfl, List.prefix_append _ _, id, id⟩

theorem event_delivers (b : Block) (e : Event) : Delivers b (b.event e) := emit_delivers b _

theorem withStolen2_delivers (b : Block) (x : Bool) : Delivers b (b.withStolen2 x) :=
  ⟨rfl, rfl, rfl, rfl, List.prefix_refl _, id, id⟩

/-- A write whose fields fit keeps TIME's ranges. -/
theorem Write.apply_timeOk {b : Block} {w : Write} (hw : w.fieldsFit = true) (h : b.TimeOk) : (w.apply b).TimeOk := by
  cases w <;> first | exact h | exact hw

/-- Every write keeps the SCODE equation: WR_CELL writes the four fields together (R88). -/
theorem Write.apply_cellOk {b : Block} {w : Write} (h : b.CellOk) : (w.apply b).CellOk := by
  cases w <;> first | exact h | rfl

theorem apply_delivers {b : Block} {w : Write} (hw : w.fieldsFit = true) : Delivers b (w.apply b) :=
  ⟨by simp, by simp, by simp, by simp, by simp, Write.apply_timeOk hw, Write.apply_cellOk⟩

theorem applyEnvWrite_delivers (b : Block) (w : Write) : Delivers b (applyEnvWrite b w) := by
  unfold applyEnvWrite
  split
  · exact apply_delivers ‹_›
  · exact event_delivers b _

theorem foldl_applyEnvWrite_delivers (ws : List Write) (b : Block) : Delivers b (ws.foldl applyEnvWrite b) := by
  induction ws generalizing b with
  | nil => exact .refl b
  | cons w ws ih => exact (applyEnvWrite_delivers b w).trans (ih _)

theorem runEnv_delivers (P : Params) (r : Record) (b : Block) : Delivers b (runEnv P r b) :=
  foldl_applyEnvWrite_delivers _ b

theorem deliver_delivers (P : Params) (ch : Channel) (bits : Bits) (b : Block) : Delivers b (deliver P ch bits b) :=
  (emit_delivers b _).trans (runEnv_delivers P _ _)

theorem decodeAndDeliver_delivers (P : Params) (ch : Channel) (x : Bits) (seed : Word32) (c : CodeClass) (b : Block) :
    Delivers b (decodeAndDeliver P ch x seed c b) := by
  unfold decodeAndDeliver
  dsimp only
  split
  · exact deliver_delivers P ch _ b
  · exact .refl b

theorem deliverAach_delivers (P : Params) (bbk : Bits) (b : Block) : Delivers b (deliverAach P bbk b) :=
  deliver_delivers P .aach _ b

theorem splitSb_delivers (P : Params) (v : Bits) (b : Block) : Delivers b (splitSb P v b) :=
  ((decodeAndDeliver_delivers P .bsch _ _ _ b).trans (deliverAach_delivers P _ _)).trans
    (decodeAndDeliver_delivers P _ _ _ _ _)

theorem tchOut_delivers (P : Params) (x : Bits) (b : Block) : Delivers b (tchOut P x b) := emit_delivers b _

theorem splitNdb_delivers (P : Params) (v : Bits) (b : Block) : Delivers b (splitNdb P v b) := by
  refine (deliverAach_delivers P (extract P.layout.ndBbk v) b).trans ?_
  unfold splitNdb
  dsimp only
  split
  · exact tchOut_delivers P _ _
  · exact decodeAndDeliver_delivers P _ _ _ _ _

theorem unstolenHalf_delivers (P : Params) (x : Bits) (b : Block) : Delivers b (unstolenHalf P x b) := by
  unfold unstolenHalf
  split
  · exact event_delivers b _
  · exact deliver_delivers P _ _ b

theorem splitSf_delivers (P : Params) (v : Bits) (b : Block) : Delivers b (splitSf P v b) := by
  refine (deliverAach_delivers P (extract P.layout.ndBbk v) b).trans ?_
  unfold splitSf
  dsimp only
  generalize deliverAach P (extract P.layout.ndBbk v) b = c
  refine (decodeAndDeliver_delivers P (halfSlotChannel c) (extract P.layout.ndBkn1 v) c.cell.scode (halfClass P) c).trans ?_
  split
  · exact unstolenHalf_delivers P _ _
  · exact decodeAndDeliver_delivers P _ _ _ _ _

theorem splitBurst_delivers (P : Params) (ty : BurstType) (v : Bits) (b : Block) :
    Delivers b (splitBurst P ty v b) := by
  refine Delivers.trans ?_ (withStolen2_delivers _ false)
  cases ty
  · exact splitSb_delivers P v b
  · exact splitNdb_delivers P v b
  · exact splitSf_delivers P v b

/-- What PROCESS can do (R56). -/
theorem processBurst_delivers (P : Params) (v : Bits) (b : Block) : Delivers b (processBurst P v b) := by
  unfold processBurst
  split
  · exact (event_delivers b _).trans (withStolen2_delivers _ _)
  · exact splitBurst_delivers P _ v b

/-- STOLEN2 is clear after every burst processed, valid or invalid (R80, R56). -/
theorem processBurst_stolen2 (P : Params) (v : Bits) (b : Block) : (processBurst P v b).stolen2 = false := by
  unfold processBurst
  split <;> rfl

/-- The TDMA increment keeps the ranges (R57). -/
theorem tdmaInc_inRange {t : Time} (h : timeInRange t.tn t.fn t.mn = true) :
    timeInRange (tdmaInc t).tn (tdmaInc t).fn (tdmaInc t).mn = true := by
  simp only [timeInRange, Bool.and_eq_true, decide_eq_true_eq] at h ⊢
  unfold tdmaInc
  split
  · simp only; omega
  · split
    · simp only; omega
    · split <;> simp only <;> omega

end Sys2Proof.Machine
end

