-- ==== Sys2Proof/Laws/Decode.lean ====
section
/-! SUPPORT. The field readers undo the field writers, and the other way round. -/

namespace Sys2Proof

theorem u16Bytes_join (hi lo : Byte) : u16Bytes (u16Join hi lo) = [hi, lo] := by
  have h1 : (u16Join hi lo).extractLsb' 8 8 = hi := by
    apply BitVec.eq_of_getLsbD_eq; intro i hi'
    simp only [u16Join, BitVec.getLsbD_append, BitVec.getLsbD_extractLsb']
    simp [hi']
  have h2 : (u16Join hi lo).extractLsb' 0 8 = lo := by
    apply BitVec.eq_of_getLsbD_eq; intro i hi'
    simp only [u16Join, BitVec.getLsbD_append, BitVec.getLsbD_extractLsb']
    simp [hi']
  simp only [u16Bytes, h1, h2]

theorem u16Join_bytes (w : Word16) : u16Join (w.extractLsb' 8 8) (w.extractLsb' 0 8) = w := by
  apply BitVec.eq_of_getLsbD_eq; intro i hi
  simp only [u16Join, BitVec.getLsbD_append, BitVec.getLsbD_extractLsb']
  by_cases h : i < 8
  · simp [h]
  · simp [h, show i - 8 < 8 by omega, show 8 + (i - 8) = i by omega]

theorem u32Join_bytes (w : Word32) :
    u32Join (w.extractLsb' 24 8) (w.extractLsb' 16 8) (w.extractLsb' 8 8) (w.extractLsb' 0 8) = w := by
  apply BitVec.eq_of_getLsbD_eq; intro i hi
  simp only [u32Join, BitVec.getLsbD_append, BitVec.getLsbD_extractLsb']
  by_cases h0 : i < 8
  · simp [h0, show i < 16 by omega]
  by_cases h1 : i < 16
  · simp [h0, h1, show i - 8 < 8 by omega, show 8 + (i - 8) = i by omega]
  by_cases h2 : i < 24
  · simp [h1, show i - 16 < 8 by omega, show 16 + (i - 16) = i by omega]
  · simp [h1, show ¬ i - 16 < 8 by omega, show i - 16 - 8 < 8 by omega, show 24 + (i - 16 - 8) = i by omega]

theorem u32Bytes_join (b3 b2 b1 b0 : Byte) : u32Bytes (u32Join b3 b2 b1 b0) = [b3, b2, b1, b0] := by
  have e3 : (u32Join b3 b2 b1 b0).extractLsb' 24 8 = b3 := by
    apply BitVec.eq_of_getLsbD_eq; intro i hi
    simp only [u32Join, BitVec.getLsbD_append, BitVec.getLsbD_extractLsb']
    simp [hi, show ¬ 24 + i < 16 by omega, show ¬ 24 + i - 16 < 8 by omega, show 24 + i - 16 - 8 = i by omega]
  have e2 : (u32Join b3 b2 b1 b0).extractLsb' 16 8 = b2 := by
    apply BitVec.eq_of_getLsbD_eq; intro i hi
    simp only [u32Join, BitVec.getLsbD_append, BitVec.getLsbD_extractLsb']
    simp [hi, show ¬ 16 + i < 16 by omega, show 16 + i - 16 = i by omega]
  have e1 : (u32Join b3 b2 b1 b0).extractLsb' 8 8 = b1 := by
    apply BitVec.eq_of_getLsbD_eq; intro i hi
    simp only [u32Join, BitVec.getLsbD_append, BitVec.getLsbD_extractLsb']
    simp [hi, show 8 + i < 16 by omega, show ¬ 8 + i < 8 by omega]
  have e0 : (u32Join b3 b2 b1 b0).extractLsb' 0 8 = b0 := by
    apply BitVec.eq_of_getLsbD_eq; intro i hi
    simp only [u32Join, BitVec.getLsbD_append, BitVec.getLsbD_extractLsb']
    simp [hi, show i < 16 by omega]
  simp only [u32Bytes, e3, e2, e1, e0]

@[simp] theorem takeU8_cons (b : Byte) (l : List Byte) : takeU8 (b :: l) = some (b, l) := rfl

@[simp] theorem takeU16_bytes (w : Word16) (l : List Byte) : takeU16 (u16Bytes w ++ l) = some (w, l) := by
  simp [u16Bytes, takeU16, u16Join_bytes]

@[simp] theorem takeU32_bytes (w : Word32) (l : List Byte) : takeU32 (u32Bytes w ++ l) = some (w, l) := by
  simp [u32Bytes, takeU32, u32Join_bytes]

theorem takeVec_append (d rest : List Byte) : takeVec d.length (d ++ rest) = some (d, rest) := by
  induction d with
  | nil => rfl
  | cons b d ih => simp [takeVec, ih]

theorem takeVec_append_of_length {n : Nat} {d : List Byte} (h : d.length = n) (rest : List Byte) :
    takeVec n (d ++ rest) = some (d, rest) := h ▸ takeVec_append d rest

theorem takeCountedVec_append {d : List Byte} (h : vecFits d) (rest : List Byte) :
    takeCountedVec (countedVec d ++ rest) = some (d, rest) := by
  have h' : d.length < 65536 := by simp [vecFits] at h; omega
  simp [takeCountedVec, countedVec, List.append_assoc, Nat.mod_eq_of_lt h', takeVec_append]

/-- What a vector reader that succeeds has read. -/
theorem takeVec_eq_some {n : Nat} {l v rest : List Byte} (h : takeVec n l = some (v, rest)) :
    v.length = n ∧ l = v ++ rest := by
  induction n generalizing l v rest with
  | zero => simp [takeVec] at h; simp [h]
  | succ n ih =>
    cases l with
    | nil => simp [takeVec] at h
    | cons b l =>
      simp only [takeVec] at h
      split at h
      · rename_i v' r' hv
        obtain ⟨h1, h2⟩ := ih hv
        simp at h
        obtain ⟨rfl, rfl⟩ := h
        exact ⟨by simp [h1], by simp [h2]⟩
      · cases h

/-- A vector reader fails only where the stream is too short. -/
theorem takeVec_eq_none {n : Nat} {l : List Byte} (h : takeVec n l = none) : l.length < n := by
  induction n generalizing l with
  | zero => simp [takeVec] at h
  | succ n ih =>
    cases l with
    | nil => simp
    | cons b l =>
      simp only [takeVec] at h
      split at h
      · cases h
      · rename_i hv
        have := ih hv
        simp
        omega

/-- The opcode map names each command by its own byte. -/
theorem Opcode.ofByte_code (o : Opcode) : Opcode.ofByte o.code = some o := by cases o <;> decide

/-- A byte that selects a command is that command's opcode. -/
theorem Opcode.code_of_ofByte {b : Byte} {o : Opcode} (h : Opcode.ofByte b = some o) : o.code = b := by
  have := List.find?_some h
  simpa using this

end Sys2Proof
end

