-- ==== Sys2Proof/Laws/PerInstr.lean ====
section
/-! SUPPORT. Statements made per instruction, one lemma per constructor. `Operands`: the operand reader of an opcode reads
back the operand fields the encoder writes. -/

namespace Sys2Proof.Laws.Operands

/-- The operand fields of a well-formed instruction are read back, and nothing after them is touched. -/
def Statement (i : Instr) : Prop :=
  i.wf = true → ∀ rest, decodeOperands i.opcode (i.operandBytes ++ rest) = some (i, rest)

theorem rxSymbol (sym : Byte) : Statement (.rxSymbol sym) := fun _ _ => rfl
theorem eos : Statement .eos := fun _ _ => rfl
theorem tdmaInc : Statement .tdmaInc := fun _ _ => rfl
theorem descramble (seed : Word32) (d : List Byte) : Statement (.descramble seed d) := fun h rest => by
  simp [Instr.opcode, Instr.operandBytes, decodeOperands, takeCountedVec_append h]
theorem deinterleave (k a : Word16) (d : List Byte) : Statement (.deinterleave k a d) := fun h rest => by
  have h : d.length = k.toNat := by simpa [Instr.wf] using h
  simp [Instr.opcode, Instr.operandBytes, decodeOperands, takeVec_append_of_length h]
theorem depuncture23 (d : List Byte) : Statement (.depuncture23 d) := fun h rest => by
  simp [Instr.opcode, Instr.operandBytes, decodeOperands, takeCountedVec_append h]
theorem viterbi (d : List Byte) : Statement (.viterbi d) := fun h rest => by
  simp [Instr.opcode, Instr.operandBytes, decodeOperands, takeCountedVec_append h]
theorem rmDecode (d : List Byte) : Statement (.rmDecode d) := fun h rest => by
  have h : d.length = 30 := by simpa [Instr.wf] using h
  simp [Instr.opcode, Instr.operandBytes, decodeOperands, takeVec_append_of_length h]
theorem crc16Check (len : Word16) (d : List Byte) : Statement (.crc16Check len d) := fun h rest => by
  simp [Instr.opcode, Instr.operandBytes, decodeOperands, takeCountedVec_append h]
theorem classify (d : List Byte) : Statement (.classify d) := fun h rest => by
  have h : d.length = 510 := by simpa [Instr.wf] using h
  simp [Instr.opcode, Instr.operandBytes, decodeOperands, takeVec_append_of_length h]
theorem split (ty : Byte) (d : List Byte) : Statement (.split ty d) := fun h rest => by
  have h : d.length = 510 := by simpa [Instr.wf] using h
  simp [Instr.opcode, Instr.operandBytes, decodeOperands, takeVec_append_of_length h]
theorem wrCell (cc : Byte) (mcc mnc : Word16) : Statement (.wrCell cc mcc mnc) := fun _ rest => by
  simp [Instr.opcode, Instr.operandBytes, decodeOperands]
theorem wrTime (tn fn mn : Byte) : Statement (.wrTime tn fn mn) := fun _ _ => rfl
theorem wrUsage (usage marker : Byte) : Statement (.wrUsage usage marker) := fun _ _ => rfl
theorem wrStolen2 (flag : Byte) : Statement (.wrStolen2 flag) := fun _ _ => rfl
theorem wrFreq (freq : Word32) : Statement (.wrFreq freq) := fun _ rest => by
  simp [Instr.opcode, Instr.operandBytes, decodeOperands]
theorem wrLch (lch : Byte) : Statement (.wrLch lch) := fun _ _ => rfl
theorem rdState : Statement .rdState := fun _ _ => rfl
theorem reset : Statement .reset := fun _ _ => rfl

end Sys2Proof.Laws.Operands
end

