-- ==== Sys2Proof/Laws/Step.lean ====
section
/-! SUPPORT. What a step can do, said once: it runs a whole command, or answers a reserved opcode; and what a command can
do, as an equation on the state it answers. -/

namespace Sys2Proof.Machine

/-- The state a command answers with: the result's block and OK, or the same block and the fault's code. -/
theorem exec_eq_next {i : Instr} {s t : State} (h : exec i s = .next t) :
    (∃ b p, resultOf s.params i s.block = .ok (b, p) ∧
      t = { s with block := b, responses := s.responses ++ [⟨.ok, p⟩] }) ∨
    (∃ c, resultOf s.params i s.block = .error c ∧
      t = { s with responses := s.responses ++ [⟨c, []⟩] }) := by
  rw [exec_eq_finish] at h
  rcases finish_cases s (resultOf s.params i s.block) with ⟨b, p, hr, hf⟩ | ⟨c, hr, hf⟩
  · rw [hf] at h; cases h; exact .inl ⟨b, p, hr, rfl⟩
  · rw [hf] at h; cases h; exact .inr ⟨c, hr, rfl⟩

/-- A step that answers a next state took a whole frame off the port. -/
theorem step_eq_next {s t : State} (h : step s = .next t) :
    s.params.valid = true ∧
    ((∃ i rest, decodeFrame s.port = .command i rest ∧ exec i (s.withPort rest) = .next t) ∨
     (∃ op rest, decodeFrame s.port = .reservedOpcode op rest ∧ t = rejectOpcode (s.withPort rest))) := by
  unfold step at h
  split at h
  · refine ⟨‹_›, ?_⟩
    split at h
    · exact .inl ⟨_, _, ‹_›, h⟩
    · cases h; exact .inr ⟨_, _, ‹_›, rfl⟩
    · cases h
  · cases h

end Sys2Proof.Machine
end

