-- ==== Sys2Proof/Laws/Primitives.lean ====
section
/-! SUPPORT. Lengths of what the primitives return, the coder's transitions read backwards, and the tie rule's choice. -/

namespace Sys2Proof.Machine

@[simp] theorem keystream_length (taps : List Nat) (r : Word32) (n : Nat) : (keystream taps r n).length = n := by
  induction n generalizing r with
  | zero => rfl
  | succ n ih => simp [keystream, ih]

@[simp] theorem descramble_length (P : Params) (d : Bits) (seed : Word32) : (descramble P d seed).length = d.length := by
  simp [descramble]

@[simp] theorem deinterleave_length (P : Params) (d : Bits) (k a : Nat) : (deinterleave P d k a).length = k := by
  simp [deinterleave]

@[simp] theorem punctureGroup_length (P : Params) (x y z : Bool) : (punctureGroup P x y z).length = 8 := by
  simp [punctureGroup, Config.punctPeriod]

/-- Eight trits for each three bits (R65). -/
theorem depuncture23_length (P : Params) : ∀ d : Bits, (depuncture23 P d).length = 8 * (d.length / 3)
  | [] | [_] | [_, _] => by simp [depuncture23]
  | x :: y :: z :: rest => by
    simp [depuncture23, depuncture23_length P rest]
    omega

@[simp] theorem convOut_length (g : Generators) (s : BitVec 4) (u : Bool) : (convOut g s u).length = 4 := rfl

/-- The two predecessors of a state are the states that reach it, under the input that is its top bit (R67). -/
theorem mem_predecessors_iff (p n : BitVec 4) : p ∈ predecessors n ↔ ∃ u, convNext p u = n := by
  revert p n; decide

/-- The input of a coder step is the top bit of the state it reaches. -/
theorem msb_convNext (p : BitVec 4) (u : Bool) : (convNext p u).msb = u := by
  revert p u; decide

/-- Every tie rule chooses one of the tied items, whatever the free value is. -/
theorem pickTied_mem {α : Type} (rule : TieRule) (choice : Nat → Nat) {tied : List α} (h : tied ≠ []) :
    ∃ x ∈ tied, pickTied rule choice tied = some x := by
  have hl : 0 < tied.length := List.length_pos_iff.2 h
  cases rule with
  | smaller => exact ⟨tied.head h, List.head_mem h, by simp [pickTied, List.head?_eq_some_head h]⟩
  | larger => exact ⟨tied.getLast h, List.getLast_mem h, by simp [pickTied, List.getLast?_eq_some_getLast h]⟩
  | other id =>
    have hm : choice id % tied.length < tied.length := Nat.mod_lt _ hl
    exact ⟨tied[choice id % tied.length], List.getElem_mem hm, by simp [pickTied, hm]⟩

/-- The least metric of a list is one of it and below all of it. -/
theorem leastMetric_eq_some {l : List Nat} {m : Nat} (h : leastMetric l = some m) : m ∈ l ∧ ∀ x ∈ l, m ≤ x := by
  induction l generalizing m with
  | nil => simp [leastMetric] at h
  | cons x xs ih =>
    simp only [leastMetric] at h
    cases hx : leastMetric xs with
    | none =>
      rw [hx] at h
      have hn : xs = [] := by
        cases xs with
        | nil => rfl
        | cons y ys => simp only [leastMetric] at hx; split at hx <;> cases hx
      simp at h
      simp [hn, h]
    | some y =>
      rw [hx] at h
      obtain ⟨h1, h2⟩ := ih hx
      simp at h
      by_cases hxy : x ≤ y
      · rw [if_pos hxy] at h
        subst h
        exact ⟨by simp, fun z hz => by
          rcases List.mem_cons.1 hz with rfl | hz
          · exact le_refl _
          · exact le_trans hxy (h2 z hz)⟩
      · rw [if_neg hxy] at h
        subst h
        exact ⟨by simp [h1], fun z hz => by
          rcases List.mem_cons.1 hz with rfl | hz
          · omega
          · exact h2 z hz⟩

end Sys2Proof.Machine
end

