-- ==== Sys2Proof/Laws/Sync.lean ====
section
/-! SUPPORT. What RX_SYMBOL can do, said once: the countdown touches CNT alone, and the four branches of R52. -/

namespace Sys2Proof.Machine

/-- The value of CNT after the per_symbol countdown (R51, R52). -/
theorem countSymbol_cnt (P : Params) (b : Block) :
    (countSymbol P b).cnt = if P.countdown = .perSymbol ∧ b.sync = true ∧ b.cnt > 0 then b.cnt - 1 else b.cnt := by
  unfold countSymbol
  split
  · simp_all
  · split <;> simp_all

/-- The countdown writes nothing but CNT. -/
theorem countSymbol_eq (P : Params) (b : Block) : countSymbol P b = { b with cnt := (countSymbol P b).cnt } := by
  unfold countSymbol
  split
  · rfl
  · split <;> rfl

/-- The branches of RX_SYMBOL, on the block whose CNT is counted and whose BUF holds the symbol (R52). -/
theorem receiveSymbol_eq (P : Params) (x : Bool) (b : Block) :
    receiveSymbol P x b =
      let b' : Block := { b with cnt := (countSymbol P b).cnt, buf := b.buf ++ [x] }
      if b'.buf.length < 510 then (b', false)
      else if boundary P b'.buf then (confirmBurst P b', true)
      else if b'.sync && b'.cnt % 510 == 0 then (coastBurst P b', false)
      else (slideBuf P b', false) := by
  unfold receiveSymbol
  rw [countSymbol_eq]
  rfl

/-- Losing synchronization clears SYNC and appends one event (R54). -/
theorem loseSync_eq (b : Block) :
    loseSync b = { b with sync := false, outq := b.outq ++ [.evt .syncLost b.time] } := rfl

/-- Sliding discards the oldest bit and counts, under `literal` alone (R51, R52). -/
theorem slideBuf_eq (P : Params) (b : Block) :
    slideBuf P b =
      if P.countdown = .literal ∧ b.cnt > 0 then
        if b.cnt = 1 ∧ b.sync = true then
          { b with buf := slice b.buf 1 510, cnt := b.cnt - 1, sync := false, outq := b.outq ++ [.evt .syncLost b.time] }
        else { b with buf := slice b.buf 1 510, cnt := b.cnt - 1 }
      else { b with buf := slice b.buf 1 510 } := by
  obtain ⟨buf, sync, cnt, time, cell, chan, stolen2, closed, outq⟩ := b
  unfold slideBuf countSlide
  cases hP : P.countdown with
  | perSymbol => simp; rfl
  | literal =>
    rcases cnt with _ | _ | n
    · simp [Block.withBuf, Config.frameLen]
    · cases sync <;> rfl
    · cases sync <;> rfl

/-- What a coast or a confirmed boundary leaves of the burst's processing: everything but BUF, and SYNC where the coast
ends in a loss. -/
theorem checkCoastLoss_eq (P : Params) (b : Block) :
    checkCoastLoss P b =
      if P.countdown = .perSymbol ∧ b.cnt = 0 then
        { b with sync := false, outq := b.outq ++ [.evt .syncLost b.time] } else b := by
  unfold checkCoastLoss
  split
  · simp_all
  · split <;> simp_all [loseSync_eq]

end Sys2Proof.Machine
end

