-- ==== Sys2Proof/Tests/Slice0.lean ====
section
/-! SUPPORT. Tests. Expected results come from spec/95_test_vectors.md (the vector is named) or from the rule named; frames
are written out byte by byte from spec/30_encoding.md R41. The `witness_` theorems show, for each obligation, states and
operands that meet its hypotheses, clause by clause. -/

namespace Sys2Proof.Tests

-- one theorem at a time: each thread of a parallel elaboration reserves a stack of its own
set_option Elab.async false
set_option maxRecDepth 100000

open Sys2Proof.Machine Sys2Proof.Spec

/-! ## Helpers -/

/-- The state after one step; the same state where the machine has no move. -/
def stepped (s : State) : State :=
  match step s with
  | .next t => t
  | .fault _ => s
  | .refused _ => s

/-- Whether a step answers a next state. -/
def isNext (s : State) : Bool :=
  match step s with
  | .next _ => true
  | .fault _ => false
  | .refused _ => false

/-- The fault a step stops with. -/
def faultOf (s : State) : Option Fault :=
  match step s with
  | .next _ => none
  | .fault f => some f
  | .refused _ => none

/-- The refusal a step stops with. -/
def refusalOf (s : State) : Option Refusal :=
  match step s with
  | .next _ => none
  | .fault _ => none
  | .refused r => some r

/-- A step that answers a next state answers `stepped s`. -/
theorem step_eq_stepped {s : State} (h : isNext s = true) : step s = .next (stepped s) := by
  unfold isNext at h
  unfold stepped
  cases hs : step s <;> simp_all

/-- The machine after reset with these bytes at the port. -/
def sent (bytes : List Byte) : State := State.reset.withPort bytes

/-- The response to the first frame of these bytes, sent to the reset machine. -/
def answer (bytes : List Byte) : List Response := (stepped (sent bytes)).responses

/-- The block after the first frame of these bytes. -/
def blockAfter (bytes : List Byte) : Block := (stepped (sent bytes)).block

/-- The reset machine with another block. -/
def withBlk (b : Block) : State := State.reset.withBlock b

/-- The reset machine after EOS. -/
def closedState : State := withBlk { Block.initial with closed := true }

/-- The vector `n` elements long that a hexadecimal constant of the spec writes, padded at the right (0.). -/
def hexBits (n value : Nat) : Bits := bitsMsb n (value >>> ((4 - n % 4) % 4))

/-- A 510-bit burst with the default begin and end patterns and zeros between: a boundary, of no burst type. -/
def emptyBurst : Bits := Params.default.tsBegin ++ List.replicate 488 false ++ Params.default.tsEnd

/-- The reset machine with all of `emptyBurst` received but its last symbol. -/
def almostFull : State := withBlk { Block.initial with buf := emptyBurst.take 509 }

/-- A synchronized machine, 509 zeros received since the last boundary, STOLEN2 set. -/
def almostCoasting : State :=
  withBlk { Block.initial with buf := List.replicate 509 false, sync := true, cnt := 25500, stolen2 := true }

/-- An unsynchronized machine, 509 zeros received. -/
def almostSliding : State := withBlk { Block.initial with buf := List.replicate 509 false, stolen2 := true }

/-- The default instance with the reference environment. -/
def refParams : Params := { Params.default with env := .ref }

/-- The default instance with the per_symbol countdown. -/
def perSymbolParams : Params := { Params.default with countdown := .perSymbol }

/-! ## Well-formedness: each check refuses an ill-formed term -/

theorem test_wf_descramble : (Instr.descramble 0 (List.replicate 65536 0)).wf = false := by
  change decide ((List.replicate 65536 (0 : Byte)).length ≤ 65535) = false
  rw [List.length_replicate]; decide
theorem test_wf_deinterleave : (Instr.deinterleave 5 2 [0, 0, 0, 0]).wf = false := by decide
theorem test_wf_depuncture23 : (Instr.depuncture23 (List.replicate 65536 0)).wf = false := by
  change decide ((List.replicate 65536 (0 : Byte)).length ≤ 65535) = false
  rw [List.length_replicate]; decide
theorem test_wf_viterbi : (Instr.viterbi (List.replicate 65536 0)).wf = false := by
  change decide ((List.replicate 65536 (0 : Byte)).length ≤ 65535) = false
  rw [List.length_replicate]; decide
theorem test_wf_rmDecode : (Instr.rmDecode (List.replicate 29 0)).wf = false := by decide
theorem test_wf_crc16Check : (Instr.crc16Check 0 (List.replicate 65536 0)).wf = false := by
  change decide ((List.replicate 65536 (0 : Byte)).length ≤ 65535) = false
  rw [List.length_replicate]; decide
theorem test_wf_classify : (Instr.classify (List.replicate 511 0)).wf = false := by decide +kernel
theorem test_wf_split : (Instr.split 0 (List.replicate 509 0)).wf = false := by decide +kernel

/-! ## Decoding: every constructor, from its frame written out byte by byte (R41) -/

theorem test_decode_rxSymbol : decodeFrame [0x01, 0x01] = .command (.rxSymbol 1) [] := by decide
theorem test_decode_eos : decodeFrame [0x02, 0x99] = .command .eos [0x99] := by decide
theorem test_decode_tdmaInc : decodeFrame [0x03] = .command .tdmaInc [] := by decide
theorem test_decode_descramble :
    decodeFrame [0x10, 0xE1, 0x7F, 0xFF, 0x07, 0x00, 0x03, 1, 0, 1] =
      .command (.descramble 0xE17FFF07 [1, 0, 1]) [] := by decide
theorem test_decode_deinterleave :
    decodeFrame [0x11, 0x00, 0x05, 0x01, 0x02, 1, 0, 0, 1, 0] =
      .command (.deinterleave 5 0x0102 [1, 0, 0, 1, 0]) [] := by decide
theorem test_decode_depuncture23 :
    decodeFrame [0x12, 0x00, 0x03, 1, 0, 1, 0x40] = .command (.depuncture23 [1, 0, 1]) [0x40] := by decide
theorem test_decode_viterbi :
    decodeFrame [0x13, 0x00, 0x04, 1, 2, 0, 1] = .command (.viterbi [1, 2, 0, 1]) [] := by decide
theorem test_decode_rmDecode :
    decodeFrame (0x14 :: (List.replicate 14 1 ++ List.replicate 16 0)) =
      .command (.rmDecode (List.replicate 14 1 ++ List.replicate 16 0)) [] := by decide
theorem test_decode_crc16Check :
    decodeFrame [0x15, 0x01, 0x02, 0x00, 0x02, 1, 0] = .command (.crc16Check 0x0102 [1, 0]) [] := by decide
theorem test_decode_classify :
    decodeFrame (0x20 :: (List.replicate 509 0 ++ [1])) = .command (.classify (List.replicate 509 0 ++ [1])) [] := by
  decide +kernel
theorem test_decode_split :
    decodeFrame ([0x21, 0x02] ++ (List.replicate 509 0 ++ [1])) =
      .command (.split 2 (List.replicate 509 0 ++ [1])) [] := by decide +kernel
theorem test_decode_wrCell :
    decodeFrame [0x30, 0x01, 0x03, 0x85, 0x3F, 0xFF] = .command (.wrCell 1 901 16383) [] := by decide
theorem test_decode_wrTime : decodeFrame [0x31, 0x04, 0x12, 0x3C] = .command (.wrTime 4 18 60) [] := by decide
theorem test_decode_wrUsage : decodeFrame [0x32, 0x01, 0x04] = .command (.wrUsage 1 4) [] := by decide
theorem test_decode_wrStolen2 : decodeFrame [0x33, 0x01] = .command (.wrStolen2 1) [] := by decide
theorem test_decode_wrFreq :
    decodeFrame [0x34, 0x17, 0xD7, 0x84, 0x00] = .command (.wrFreq 400000000) [] := by decide
theorem test_decode_wrLch : decodeFrame [0x35, 0x07] = .command (.wrLch 7) [] := by decide
theorem test_decode_rdState : decodeFrame [0x3F] = .command .rdState [] := by decide
theorem test_decode_reset : decodeFrame [0x40] = .command .reset [] := by decide
/-- R40, R44: a reserved opcode takes one byte, a short frame is incomplete. -/
theorem test_decode_rejects :
    decodeFrame [0x07, 0x02] = .reservedOpcode 0x07 [0x02] ∧ decodeFrame [0x30, 0x01, 0x03] = .incomplete := by decide
/-- The host's table words: the second byte is bits 15..8, and the bytes above the table's bits are zero. -/
theorem test_decodeTableWord :
    decodeTableWord 16 0x0101 = some (.rxSymbol 1) ∧ decodeTableWord 8 0x13 = some (.viterbi []) ∧
    decodeTableWord 8 0x07 = none := by decide

/-! ## The commands -/

/-- V1.1, V1.11. -/
theorem test_rxSymbol_appends :
    answer [0x01, 0x01] = [⟨.ok, [0]⟩] ∧ (blockAfter [0x01, 0x01]).buf = [true] ∧
    answer [0x01, 0x02] = [⟨.badElement, []⟩] := by decide +kernel
/-- R52: the boundary branch sets SYNC and CNT, advances TIME before the burst is processed, and clears BUF. -/
theorem test_rxSymbol_boundary :
    let t := stepped (almostFull.withPort [0x01, 0x00])
    t.responses = [⟨.ok, [1]⟩] ∧ t.block.sync = true ∧ t.block.cnt = 25500 ∧ t.block.time = ⟨2, 1, 1⟩ ∧
    t.block.buf = [] ∧ t.block.outq = [.evt .burstInvalid ⟨2, 1, 1⟩] := by decide +kernel
/-- V12.2: `02` returns `00`, a following `01 00` returns `06`. -/
theorem test_eos_closes :
    (run 2 (sent [0x02, 0x01, 0x00])).responses = [⟨.ok, []⟩, ⟨.closed, []⟩] ∧
    (blockAfter [0x02]).closed = true := by decide +kernel
/-- V3: (4,18,59) → (1,1,60) and (4,18,60) → (1,1,1). -/
theorem test_tdmaInc_wraps :
    (run 2 (sent [0x31, 4, 18, 59, 0x03])).block.time = ⟨1, 1, 60⟩ ∧
    (run 2 (sent [0x31, 4, 18, 60, 0x03])).block.time = ⟨1, 1, 1⟩ := by decide +kernel
/-- V4.2. -/
theorem test_descramble_seed3 :
    answer [0x10, 0, 0, 0, 3, 0, 4, 1, 0, 1, 0] = [⟨.ok, [0, 4, 0, 0, 0, 1]⟩] := by decide +kernel
/-- V4, the first 16 keystream bits of seed 0xE17FFF07. -/
theorem test_keystream_cell :
    keystream Params.default.lfsrTaps 0xE17FFF07 16 = bitsMsb 16 0b0010001110100111 := by decide +kernel
/-- V5.3. -/
theorem test_deinterleave_5_2 :
    answer [0x11, 0, 5, 0, 2, 1, 0, 0, 0, 0] = [⟨.ok, [0, 5, 0, 0, 0, 0, 1]⟩] := by decide +kernel
/-- V5.9, V5.10. -/
theorem test_deinterleave_badParam :
    answer [0x11, 0, 4, 0, 2, 0, 0, 0, 0] = [⟨.badParam, []⟩] ∧ answer [0x11, 0, 0, 0, 1] = [⟨.badParam, []⟩] := by
  decide +kernel
/-- V6.2. -/
theorem test_depuncture23_groups :
    answer [0x12, 0, 6, 1, 1, 0, 0, 1, 1] =
      [⟨.ok, [0, 16, 1, 1, 2, 2, 0, 2, 2, 2, 0, 1, 2, 2, 1, 2, 2, 2]⟩] := by decide +kernel
/-- V6.4. -/
theorem test_depuncture23_badLength : answer [0x12, 0, 2, 0, 0] = [⟨.badLength, []⟩] := by decide +kernel
/-- V7.5: conv(10110000) with bits 0 and 9 flipped decodes to 10110000. -/
theorem test_viterbi_corrects :
    answer [0x13, 0, 32, 0,1,1,1, 1,0,1,1, 1,1,0,1, 0,0,0,1, 0,0,1,0, 0,0,1,1, 1,0,1,0, 1,1,1,1] =
      [⟨.ok, [0, 8, 1, 0, 1, 1, 0, 0, 0, 0]⟩] := by decide +kernel
/-- V7.11 and V7.14: the end tie picks state 0, and erasures decode to zeros. -/
theorem test_viterbi_ties :
    answer [0x13, 0, 4, 1, 1, 0, 0] = [⟨.ok, [0, 1, 0]⟩] ∧
    answer ([0x13, 0, 16] ++ List.replicate 16 2) = [⟨.ok, [0, 4, 0, 0, 0, 0]⟩] := by decide +kernel
/-- V8.1, V8.3. -/
theorem test_rmDecode :
    answer ([0x14, 1,0,1,1,0,0,1,1,1,0,0,0,1,1] ++ List.replicate 16 1) =
      [⟨.ok, [1,0,1,1,0,0,1,1,1,0,0,0,1,1]⟩] ∧
    answer ([0x14] ++ List.replicate 14 0 ++ [2] ++ List.replicate 15 0) = [⟨.badElement, []⟩] := by decide +kernel
/-- V9.3, V9.10. -/
theorem test_crc16Check_residue :
    answer ([0x15, 0, 16, 0, 16] ++ List.replicate 16 0) = [⟨.ok, [1]⟩] ∧
    answer ([0x15, 0, 17, 0, 16] ++ List.replicate 16 0) = [⟨.badLength, []⟩] := by decide +kernel
/-- V9.5, V9.11. -/
theorem test_crc16Check_register :
    crcReg [true, false, true, true, false, false, false, false] 8 = 0x462B ∧
    answer [0x15, 0, 0, 0, 1, 2] = [⟨.badElement, []⟩] := by decide +kernel
/-- V2.6, the burst TIE: SB and NDB tie at 3, and SB wins by priority. -/
theorem test_classify_tie :
    answer (0x20 :: bitsBytes (hexBits 510
      0x1AD0000000000000000000000000000000000000000000000000030673A7060E9D00000000000000000000000000000000000000000000000000000000000B70))
      = [⟨.ok, [0x00, 0x03, 0x03, 0x0A]⟩] := by decide +kernel
/-- V2.5: Z_SB with bits 214 to 219 flipped, six sync errors, INVALID. -/
theorem test_classify_invalid :
    answer (0x20 :: bitsBytes (hexBits 510
      0x1AD000000000000000000000000000000000000000000000000000F673A706700000000000000000000000000000000000000000000000000000000000000B70))
      = [⟨.ok, [0xFF, 0x06, 0x0E, 0x0B]⟩] := by decide +kernel
/-- V10.12. -/
theorem test_split_badParam : answer ([0x21, 0x03] ++ List.replicate 510 0) = [⟨.badParam, []⟩] := by decide +kernel
/-- V10.11: NDB6 in traffic mode under SCODE 0xE17FFF07 gives its AACH, then the TCH bits as soft values. -/
theorem test_split_traffic :
    let s := withBlk { Block.initial with
      cell := ⟨1, 901, 16383, 0xE17FFF07, 0⟩, chan := ⟨true, 4, 0⟩, stolen2 := true }
    let t := stepped (s.withPort ([0x21, 0x01] ++ bitsBytes (hexBits 510
      0x1AD206FEF1D5BF4528EC5F554F05DA76377EFF52C845B7588C360A28059E9D0E9D338462BB08AD11D62FEEC57365D17EC87FF3F74A3A940E72D1AFEF03398B70)))
    let soft := (hexBits 432
      0xA218843221FC3E567CCFB24E77C02CE7D84822F3E3896A267785595B816045738826126EAB9254C7B5DC1976948AE08DB42BC9863537).map
        fun x => if x then (0x7F : Byte) else 0x81
    t.responses = [⟨.ok, []⟩] ∧ t.block.stolen2 = false ∧
    t.block.outq = [.dlv .aach ⟨1, 1, 1⟩ (bitsMsb 14 0b01000100000000),
      .tch ⟨1, 1, 1⟩ (soft.take 114) ((soft.drop 114).take 114) ((soft.drop 228).take 114) (soft.drop 342)] := by
  decide +kernel
/-- V11.1. -/
theorem test_wrCell_scode :
    (blockAfter [0x30, 0x01, 0x03, 0x85, 0x3F, 0xFF]).cell = ⟨1, 901, 16383, 0xE17FFF07, 0⟩ := by decide +kernel
/-- V11.3, V11.4, V11.5. -/
theorem test_wrCell_badField :
    answer [0x30, 0x40, 0, 0, 0, 0] = [⟨.badField, []⟩] ∧ answer [0x30, 0, 0x04, 0, 0, 0] = [⟨.badField, []⟩] ∧
    answer [0x30, 0, 0, 0, 0x40, 0] = [⟨.badField, []⟩] := by decide +kernel
/-- V11.6. -/
theorem test_wrTime : (blockAfter [0x31, 0x04, 0x12, 0x3C]).time = ⟨4, 18, 60⟩ := by decide +kernel
/-- V11.7. -/
theorem test_wrTime_badField :
    answer [0x31, 5, 1, 1] = [⟨.badField, []⟩] ∧ answer [0x31, 0, 1, 1] = [⟨.badField, []⟩] ∧
    answer [0x31, 1, 0x13, 1] = [⟨.badField, []⟩] ∧ answer [0x31, 1, 1, 0x3D] = [⟨.badField, []⟩] := by decide +kernel
/-- V11.8. -/
theorem test_wrUsage : (blockAfter [0x32, 0x01, 0x04]).chan = ⟨true, 4, 0⟩ := by decide +kernel
/-- V11.9. -/
theorem test_wrUsage_badField :
    answer [0x32, 0x02, 0x00] = [⟨.badField, []⟩] ∧ answer [0x32, 0x01, 0x40] = [⟨.badField, []⟩] := by decide +kernel
/-- V11.10. -/
theorem test_wrStolen2 :
    let t := run 2 (sent [0x33, 0x01, 0x33, 0x02])
    t.responses = [⟨.ok, []⟩, ⟨.badField, []⟩] ∧ t.block.stolen2 = true := by decide +kernel
/-- V11.11. -/
theorem test_wrFreq : (blockAfter [0x34, 0x17, 0xD7, 0x84, 0x00]).cell.freq = 400000000 := by decide +kernel
/-- V11.12. -/
theorem test_wrLch : (blockAfter [0x35, 0xFF]).chan.lch = 255 := by decide +kernel
/-- V11.13. -/
theorem test_rdState_reset :
    answer [0x3F] = [⟨.ok, [0, 0, 0, 1, 1, 1, 0, 0, 0, 0, 0, 0, 0, 0, 3, 0, 0, 0, 0, 0, 0, 0, 0, 0, 0, 0]⟩] := by
  decide +kernel
/-- V11.14. -/
theorem test_rdState_buf :
    (run 2 (sent [0x01, 0x01, 0x3F])).responses.getLast? =
      some ⟨.ok, [0, 0, 0, 1, 1, 1, 0, 0, 0, 0, 0, 0, 0, 0, 3, 0, 0, 0, 0, 0, 0, 0, 0, 0, 0, 1, 1]⟩ := by decide +kernel
/-- R111: RESET while CLOSED = 1 reopens the block, and OUTQ keeps its records. -/
theorem test_reset_reopens :
    let s := withBlk { Block.initial with closed := true, cnt := 7, outq := [.evt .burstInvalid ⟨3, 1, 1⟩] }
    (stepped (s.withPort [0x40])).block = { Block.initial with outq := [.evt .burstInvalid ⟨3, 1, 1⟩] } := by
  decide +kernel
/-- V12.1, V12.3. -/
theorem test_reserved_opcode :
    answer [0x07] = [⟨.badOpcode, []⟩] ∧
    (run 2 (sent [0x02, 0x07])).responses = [⟨.ok, []⟩, ⟨.closed, []⟩] := by decide +kernel
/-- V11.15: ENV_REF on an AACH whose header is 00; V11.16: on a BSCH whose frame field is 0. -/
theorem test_env_ref :
    envRef (.dlv .aach ⟨1, 1, 1⟩ (bitsMsb 14 0b00101010101010)) = [.usage 0 0] ∧
    (deliver refParams .bsch (List.replicate 60 false) Block.initial).outq =
      [.dlv .bsch ⟨1, 1, 1⟩ (List.replicate 60 false), .evt .envWriteRejected ⟨1, 1, 1⟩] := by decide +kernel
/-- R43: the byte layouts of a delivery and an event. -/
theorem test_record_bytes :
    (Record.dlv .schHd ⟨2, 3, 4⟩ [true, false]).bytes = [0xD0, 0x03, 2, 3, 4, 0, 2, 1, 0] ∧
    (Record.evt .syncLost ⟨4, 13, 1⟩).bytes = [0xE0, 0x01, 4, 13, 1] := by decide

/-! ## Witnesses: each obligation's hypotheses are met, clause by clause -/

/-- The 510 bytes of `emptyBurst`. -/
def burstBytes : List Byte := bitsBytes emptyBurst

/-- The SYNC payload of SB6 (spec/95_test_vectors.md 0.1): cc 1, tn field 1, fn 5, mn 7, mcc 901, mnc 16383. -/
def sb6Payload : Bits := hexBits 60 0x00528E01C2FFFE0

/-- SB6 (spec/95_test_vectors.md 0.1). -/
def sb6 : Bits := hexBits 510
  0x1AD0000000000000000000026DD2263B6D094116B0E199D85EDE1B0673A706767A738445E249844674BC5A3712628E96CC350885D0858B713C6006E3F78B4B70

theorem witness_DecodeOfEncode :
    (Instr.descramble 3 [0, 1, 0, 1]).wf = true ∧ (Instr.deinterleave 0 1 []).wf = true ∧
    (Instr.split 0xFF burstBytes).wf = true ∧ (Instr.viterbi (List.replicate 65535 0)).wf = true := by
  refine ⟨by decide, by decide, by decide +kernel, ?_⟩
  change decide ((List.replicate 65535 (0 : Byte)).length ≤ 65535) = true
  rw [List.length_replicate]; decide

theorem witness_EncodeOfDecode : decodeFrame [0x34, 0x17, 0xD7, 0x84, 0x00, 0xAA] = .command (.wrFreq 400000000) [0xAA] := by
  decide

theorem witness_FrameLengthFromHeader :
    decodeFrame [0x12, 0, 3, 1, 0, 1, 0x40] = .command (.depuncture23 [1, 0, 1]) [0x40] ∧
    decodeFrame [0x41, 0x02] = .reservedOpcode 0x41 [0x02] ∧
    decodeFrame [0x12, 0, 3, 1] = .incomplete ∧ decodeFrame [] = .incomplete := by decide

theorem witness_StepRunsDecodedCommand :
    (sent [0x02, 0x3F]).params.valid = true ∧ decodeFrame (sent [0x02, 0x3F]).port = .command .eos [0x3F] := by
  decide +kernel

theorem witness_ReservedOpcodeAnswered :
    (sent [0x07]).params.valid = true ∧ (sent [0x07]).port = [0x07] ∧
    (∀ op ∈ ([0x00, 0x04, 0x07, 0x0F, 0x16, 0x1F, 0x22, 0x2F, 0x36, 0x3E, 0x41, 0xFF] : List Byte), reserved op) ∧
    (∀ op ∈ ([0x01, 0x03, 0x10, 0x15, 0x20, 0x21, 0x30, 0x35, 0x3F, 0x40] : List Byte), ¬ reserved op) := by
  unfold reserved; decide +kernel

theorem witness_StuckWithoutWholeFrame :
    (sent []).params.valid = true ∧ faultOf (sent []) = some .portEmpty ∧
    (sent [0x30, 0x01]).params.valid = true ∧ faultOf (sent [0x30, 0x01]) = some .incompleteFrame := by decide +kernel

/-- One instance for each way to break R7 or R8, at the boundary: a begin pattern of 9 bits, an end pattern of 11 bits
(500 + 11 = 511), (216, 2), (432, 2), and a repeated and an outside kept position. -/
theorem witness_ParameterInstanceRefused :
    (List.replicate 9 true).length < 10 ∧ 510 < 500 + (List.replicate 11 true).length ∧
    38 < (List.replicate 39 true).length ∧ Nat.gcd 2 216 ≠ 1 ∧ Nat.gcd 2 432 ≠ 1 ∧
    refusalOf { State.reset with params := { Params.default with tsBegin := List.replicate 9 true } } =
      some .parametersRejected ∧
    refusalOf { State.reset with params := { Params.default with tsEnd := List.replicate 11 true } } =
      some .parametersRejected ∧
    refusalOf { State.reset with params := { Params.default with halfA := 2 } } =
      some .parametersRejected ∧
    refusalOf { State.reset with params := { Params.default with fullA := 2 } } =
      some .parametersRejected ∧
    refusalOf { State.reset with params := { Params.default with keep1 := 0 } } =
      some .parametersRejected ∧
    refusalOf { State.reset with params := { Params.default with keep2 := 8 } } =
      some .parametersRejected := by
  decide +kernel

theorem witness_EveryCommandAnsweredOnce :
    exec (.rxSymbol 2) State.reset = .next { State.reset with responses := [⟨.badElement, []⟩] } := rfl

theorem witness_StatusByPriority :
    closedState.block.closed = true ∧ ¬ acceptedWhenClosed .eos ∧ State.reset.block.closed = false ∧
    acceptedWhenClosed .reset ∧ acceptedWhenClosed .rdState ∧
    lengthBad (.depuncture23 [0, 0]) ∧ lengthBad (.viterbi [2, 2]) ∧ lengthBad (.crc16Check 3 [0, 1]) ∧
    (¬ lengthBad (.crc16Check 2 [0, 2]) ∧ elementBad (.crc16Check 2 [0, 2])) ∧
    (¬ lengthBad (.viterbi [0, 1, 2, 3]) ∧ elementBad (.viterbi [0, 1, 2, 3])) ∧
    (¬ elementBad (.deinterleave 4 2 [0, 0, 0, 1]) ∧ paramBad (.deinterleave 4 2 [0, 0, 0, 1])) ∧
    (¬ elementBad (.split 3 [0, 1]) ∧ paramBad (.split 3 [0, 1])) ∧
    fieldBad (.wrCell 64 0 0) ∧ fieldBad (.wrTime 5 1 1) ∧ fieldBad (.wrUsage 0 64) ∧ fieldBad (.wrStolen2 2) ∧
    (¬ fieldBad (.wrTime 4 18 60) ∧ ¬ lengthBad (.wrTime 4 18 60) ∧ ¬ elementBad (.wrTime 4 18 60) ∧
      ¬ paramBad (.wrTime 4 18 60)) := by
  simp [acceptedWhenClosed, lengthBad, elementBad, paramBad, fieldBad, closedState, withBlk, State.reset,
    State.initial, Block.initial, State.withBlock]

theorem witness_ClosedUntilReset :
    State.reset.block.closed = false ∧ (∃ t, exec .eos State.reset = .next t ∧ t.block.closed = true) ∧
    closedState.block.closed = true ∧ (∃ t, exec .reset closedState = .next t ∧ t.block.closed = false) ∧
    ¬ acceptedWhenClosed .tdmaInc ∧ (∃ t, exec .tdmaInc closedState = .next t) :=
  ⟨rfl, ⟨_, rfl, rfl⟩, rfl, ⟨_, rfl, rfl⟩, id, ⟨_, rfl⟩⟩

/-- R52's branches: appending, a boundary, a coast under both countdowns, sliding while lost, and (in a state no run
reaches) a slide that loses synchronization. -/
theorem witness_RxSymbolCommand :
    closedState.block.closed = true ∧ State.reset.block.closed = false ∧ 1 < (2 : Byte).toNat ∧ (1 : Byte) = bitByte true ∧
    ((List.replicate 508 false) ++ [true]).length < 510 ∧
    (almostFull.block.buf ++ [false]).length = 510 ∧
    boundary Params.default (almostFull.block.buf ++ [false]) = true ∧
    (almostCoasting.block.buf ++ [false]).length = 510 ∧
    boundary Params.default (almostCoasting.block.buf ++ [false]) = false ∧
    almostCoasting.block.sync = true ∧ 25500 % 510 = 0 ∧ 0 % 510 = 0 ∧
    boundary perSymbolParams (almostCoasting.block.buf ++ [false]) = false ∧
    almostSliding.block.sync = false ∧ boundary Params.default (almostSliding.block.buf ++ [false]) = false ∧
    ¬ (1 % 510 = 0) := by decide +kernel

theorem witness_EosCommand :
    closedState.block.closed = true ∧ ¬ acceptedWhenClosed .eos ∧ State.reset.block.closed = false := ⟨rfl, id, rfl⟩

theorem witness_TdmaIncCommand : closedState.block.closed = true ∧ State.reset.block.closed = false := by decide

theorem witness_TdmaIncrementWraps :
    tdmaInc ⟨3, 18, 60⟩ = ⟨4, 18, 60⟩ ∧ tdmaInc ⟨4, 17, 60⟩ = ⟨1, 18, 60⟩ ∧ tdmaInc ⟨4, 18, 59⟩ = ⟨1, 1, 60⟩ := by decide

theorem witness_DescrambleCommand :
    closedState.block.closed = true ∧ State.reset.block.closed = false ∧ (∃ b ∈ ([0, 2] : List Byte), 1 < b.toNat) ∧
    ([0, 1, 0, 1] : List Byte) = bitsBytes [false, true, false, true] ∧ ([] : List Byte) = bitsBytes [] := by decide

theorem witness_DeinterleaveCommand :
    ([1, 0, 0, 0, 0] : List Byte).length = (5 : Word16).toNat ∧ ([] : List Byte).length = (0 : Word16).toNat ∧
    closedState.block.closed = true ∧ State.reset.block.closed = false ∧ (∃ b ∈ ([0, 0, 0, 0, 2] : List Byte), 1 < b.toNat) ∧
    ([1, 0, 0, 0, 0] : List Byte) = bitsBytes [true, false, false, false, false] ∧
    ((0 : Word16).toNat = 0) ∧ Nat.gcd (2 : Word16).toNat (4 : Word16).toNat ≠ 1 ∧
    (5 : Word16).toNat ≠ 0 ∧ Nat.gcd (2 : Word16).toNat (5 : Word16).toNat = 1 := by decide

theorem witness_Depuncture23Command :
    closedState.block.closed = true ∧ State.reset.block.closed = false ∧ ([0, 0] : List Byte).length % 3 ≠ 0 ∧
    (24576 % 3 = 0 ∧ 8 * 24576 / 3 > 65535) ∧ (24573 % 3 = 0 ∧ 8 * 24573 / 3 ≤ 65535) ∧
    (∃ b ∈ ([0, 2, 1] : List Byte), 1 < b.toNat) ∧ ([1, 0, 1] : List Byte).length % 3 = 0 ∧
    8 * ([1, 0, 1] : List Byte).length / 3 ≤ 65535 ∧ ([1, 0, 1] : List Byte) = bitsBytes [true, false, true] ∧
    State.reset.params.keep0 < State.reset.params.keep1 ∧ State.reset.params.keep1 < State.reset.params.keep2 ∧
    State.reset.params.keep2 < 8 := by decide

theorem witness_ViterbiCommand :
    closedState.block.closed = true ∧ State.reset.block.closed = false ∧ ([0, 0] : List Byte).length % 4 ≠ 0 ∧
    ([0, 3, 0, 0] : List Byte).length % 4 = 0 ∧ (∃ b ∈ ([0, 3, 0, 0] : List Byte), 2 < b.toNat) ∧
    ([1, 2, 1, 0] : List Byte) = tritsBytes [.one, .erased, .one, .zero] := by decide

theorem witness_RmDecodeCommand :
    (bitsBytes (List.replicate 14 true ++ List.replicate 16 false)).length = 30 ∧
    (List.replicate 14 true).length = 14 ∧ closedState.block.closed = true ∧ State.reset.block.closed = false ∧
    (List.replicate 29 (0 : Byte) ++ [2]).length = 30 ∧ (∃ b ∈ List.replicate 29 (0 : Byte) ++ [2], 1 < b.toNat) := by decide

theorem witness_Crc16CheckCommand :
    closedState.block.closed = true ∧ State.reset.block.closed = false ∧ (2 : Word16).toNat > ([0] : List Byte).length ∧
    ((1 : Word16).toNat ≤ ([0, 2] : List Byte).length ∧ ∃ b ∈ ([0, 2] : List Byte), 1 < b.toNat) ∧
    (List.replicate 16 false).length = (16 : Word16).toNat ∧ ([] : Bits).length = (0 : Word16).toNat ∧
    ([1] : List Byte) = bitsBytes ([] ++ [true]) := by decide

theorem witness_ClassifyCommand :
    burstBytes.length = 510 ∧ burstBytes = bitsBytes emptyBurst ∧ closedState.block.closed = true ∧
    State.reset.block.closed = false ∧ (List.replicate 510 (2 : Byte)).length = 510 ∧
    (∃ b ∈ List.replicate 510 (2 : Byte), 1 < b.toNat) :=
  ⟨by decide +kernel, rfl, rfl, rfl, by decide +kernel, 2, by decide +kernel, by decide⟩

theorem witness_SplitCommand :
    burstBytes.length = 510 ∧ burstBytes = bitsBytes emptyBurst ∧ closedState.block.closed = true ∧
    State.reset.block.closed = false ∧ (∃ b ∈ List.replicate 510 (2 : Byte), 1 < b.toNat) ∧ 2 < (3 : Byte).toNat ∧
    (0 : Byte) = BurstType.sb.code ∧ (1 : Byte) = BurstType.ndb.code ∧ (2 : Byte) = BurstType.ndbSf.code :=
  ⟨by decide +kernel, rfl, rfl, rfl, ⟨2, by decide +kernel, by decide⟩, by decide, rfl, rfl, rfl⟩

theorem witness_WrCellCommand :
    closedState.block.closed = true ∧ State.reset.block.closed = false ∧ (64 : Byte).toNat > 63 ∧
    (1024 : Word16).toNat > 1023 ∧ (16384 : Word16).toNat > 16383 ∧
    ((63 : Byte).toNat ≤ 63 ∧ (1023 : Word16).toNat ≤ 1023 ∧ (16383 : Word16).toNat ≤ 16383) := by decide

theorem witness_WrTimeCommand :
    closedState.block.closed = true ∧ State.reset.block.closed = false ∧
    ¬ (1 ≤ (0 : Byte).toNat ∧ (0 : Byte).toNat ≤ 4) ∧ ¬ (1 ≤ (19 : Byte).toNat ∧ (19 : Byte).toNat ≤ 18) ∧
    ¬ (1 ≤ (61 : Byte).toNat ∧ (61 : Byte).toNat ≤ 60) ∧
    (1 ≤ (4 : Byte).toNat ∧ (4 : Byte).toNat ≤ 4 ∧ 1 ≤ (18 : Byte).toNat ∧ (18 : Byte).toNat ≤ 18 ∧
      1 ≤ (60 : Byte).toNat ∧ (60 : Byte).toNat ≤ 60) := by decide

theorem witness_WrUsageCommand :
    closedState.block.closed = true ∧ State.reset.block.closed = false ∧ (2 : Byte).toNat > 1 ∧ (64 : Byte).toNat > 63 ∧
    (1 : Byte) = bitByte true ∧ (0 : Byte) = bitByte false ∧ (63 : Byte).toNat ≤ 63 := by decide

theorem witness_WrStolen2Command :
    closedState.block.closed = true ∧ State.reset.block.closed = false ∧ (2 : Byte).toNat > 1 ∧ (1 : Byte) = bitByte true := by
  decide

theorem witness_WrFreqCommand : closedState.block.closed = true ∧ State.reset.block.closed = false := by decide

theorem witness_WrLchCommand : closedState.block.closed = true ∧ State.reset.block.closed = false := by decide

theorem witness_TdmaIncrementIsCyclic : timeInRange 4 18 60 = true ∧ timeInRange 1 1 1 = true := by decide

theorem witness_KeystreamIsTapRecurrence :
    (∀ y ∈ Params.default.lfsrTaps, 1 ≤ y ∧ y ≤ 32) ∧ 39 < 40 ∧ 0 < 40 := by decide

theorem witness_DeinterleaveInvertsInterleave :
    (List.replicate 5 true).length = 5 ∧ Nat.gcd 2 5 = 1 ∧ Nat.gcd 11 120 = 1 := by decide

theorem witness_DeinterleaveIsPermutation : 0 < 1 ∧ Nat.gcd 11 120 = 1 ∧ Nat.gcd 2 4 ≠ 1 := by decide

theorem witness_DepunctureOfPuncture : Params.default.keepFits = true ∧ (List.replicate 16 true).length % 8 = 0 := by decide

theorem witness_ViterbiMaximumLikelihood :
    ([.one, .one, .zero, .erased] : Trits).length % 4 = 0 ∧ ([true] : Bits).length = 4 / 4 := by decide

theorem witness_ViterbiInvertsCoder : ([false, true] : Bits).length % 2 = 0 ∧ true ∈ ([false, true] : Bits) := by decide

theorem witness_CrcPassesExactlyForFcs : (List.replicate 16 false).length = 16 ∧ (fcs []).length = 16 := by decide

theorem witness_DecodeBlockInvertsTransmit :
    (∀ c ∈ [bschClass, halfClass Params.default, fullClass Params.default],
      (List.replicate c.infoLen false).length = c.infoLen) ∧
    bschClass.infoLen = 60 ∧ (halfClass Params.default).infoLen = 124 ∧ (fullClass Params.default).infoLen = 268 := by decide

theorem witness_SbRecords :
    State.reset.block.closed = false ∧ State.reset.params.env = .null ∧
    State.reset.params.layout = Params.default.layout ∧ emptyBurst.length = 510 := by decide +kernel

theorem witness_NdbRecords :
    let s := withBlk { Block.initial with chan := ⟨true, 4, 0⟩ }
    s.block.closed = false ∧ s.params.env = .null ∧ s.params.layout = Params.default.layout ∧
    s.block.chan.usage = true ∧ State.reset.block.chan.usage = false ∧ emptyBurst.length = 510 := by decide +kernel

theorem witness_SfRecords :
    let s := withBlk { Block.initial with chan := ⟨true, 4, 0⟩ }
    s.block.closed = false ∧ s.params.env = .null ∧ s.params.layout = Params.default.layout ∧
    s.block.chan.usage = true ∧ s.block.stolen2 = false ∧ emptyBurst.length = 510 := by decide +kernel

/-- ENV_NULL, TIME and CELL in range, and a list of ENV_REF. -/
theorem witness_EnvironmentReach :
    Block.initial.TimeOk ∧ Block.initial.CellOk ∧ Params.default.env = .null ∧
    (∀ w ∈ envWrites refParams (.dlv .aach ⟨1, 1, 1⟩ (List.replicate 14 true)) Block.initial, w.fieldsFit = true) ∧
    envWrites refParams (.dlv .aach ⟨1, 1, 1⟩ (List.replicate 14 true)) Block.initial = [.usage 1 63] := by
  unfold Block.TimeOk Block.CellOk; decide +kernel

/-- An AACH with each kind of header and usage markers on both sides of 4; SB6 itself: BKN1 decodes to its SYNC payload,
whose fields are in range; and a payload whose frame field is 0. -/
theorem witness_RefEnvironmentSetsCellWithinBurst :
    refParams.env = .ref ∧
    (let field := fun a : Bits => intOf (slice a 2 8)
      -- 00 111111 000000, 01 000011 000000 and 01 000100 000000
      let a0 := bitsMsb 14 0x0FC0
      let a3 := bitsMsb 14 0x10C0
      let a4 := bitsMsb 14 0x1100
      (a0.length = 14 ∧ intOf (slice a0 0 2) = 0 ∧ field a0 = 63) ∧
      (a3.length = 14 ∧ intOf (slice a3 0 2) ≠ 0 ∧ field a3 = 3) ∧
      (a4.length = 14 ∧ intOf (slice a4 0 2) ≠ 0 ∧ field a4 = 4)) ∧
    (Channel.stch ≠ .aach ∧ Channel.stch ≠ .bsch) ∧ sb6Payload.length = 60 ∧
    (1 ≤ intOf (slice sb6Payload 12 17) ∧ intOf (slice sb6Payload 12 17) ≤ 18 ∧
      1 ≤ intOf (slice sb6Payload 17 23) ∧ intOf (slice sb6Payload 17 23) ≤ 60) ∧
    intOf (slice (List.replicate 60 false) 12 17) = 0 ∧
    decodeBlock refParams (extract refParams.layout.sbBkn1 sb6) 0x00000003 bschClass = (true, sb6Payload) := by
  decide +kernel

theorem witness_BoundaryTest :
    Params.default.patternsFit = true ∧ emptyBurst.length = 510 ∧ boundary Params.default emptyBurst = true ∧
    boundary Params.default (List.replicate 510 false) = false := by decide +kernel

/-- The four bursts have the training sequences alone: the scores are those of V2.1 to V2.3, and of no sequence. -/
theorem witness_BurstProcessing :
    let burst := fun (off : Nat) (pat : Bits) => List.replicate off false ++ pat ++ List.replicate 240 false
    (classifyBurst Params.default emptyBurst).type = none ∧
    (classifyBurst Params.default (burst 214 Params.default.tsSync)).type = some .sb ∧
    (classifyBurst Params.default (burst 244 Params.default.tsNorm1)).type = some .ndb ∧
    (classifyBurst Params.default (burst 244 Params.default.tsNorm2)).type = some .ndbSf := by decide +kernel

/-- An NDB in each mode; and an NDB_SF whose first half fails (a CRC over no bits always fails) with each routing of the
second half. -/
theorem witness_AachDecidesSameSlot :
    let P := { Params.default with halfCrcLen := 0 }
    let traffic := { Block.initial with chan := ⟨true, 4, 0⟩ }
    let b1 := fun b : Block =>
      deliver P .aach ((descramble P (extract P.layout.ndBbk emptyBurst) b.cell.scode).take 14) b
    let b2 := fun b : Block => afterBlock P (if (b1 b).chan.usage then .stch else .schHd)
      (decodeBlock P (extract P.layout.ndBkn1 emptyBurst) (b1 b).cell.scode (halfClass P)) (b1 b)
    P.valid = true ∧ (b1 traffic).chan.usage = true ∧ (b1 Block.initial).chan.usage = false ∧
    ((b2 { traffic with stolen2 := true }).chan.usage = true ∧ (b2 { traffic with stolen2 := true }).stolen2 = true) ∧
    (b2 Block.initial).chan.usage = false ∧
    ((b2 traffic).chan.usage = true ∧ (b2 traffic).stolen2 = false ∧ P.sfUnstolen = .drop) := by decide +kernel

/-- The last clause: an unstolen second half under P_SF_UNSTOLEN = tch_half. -/
theorem witness_AachDecidesSameSlot_tchHalf :
    let P := { Params.default with halfCrcLen := 0, sfUnstolen := .tchHalf }
    let b := { Block.initial with chan := ⟨true, 4, 0⟩ }
    let b1 := deliver P .aach ((descramble P (extract P.layout.ndBbk emptyBurst) b.cell.scode).take 14) b
    let b2 := afterBlock P (if b1.chan.usage then .stch else .schHd)
      (decodeBlock P (extract P.layout.ndBkn1 emptyBurst) b1.cell.scode (halfClass P)) b1
    b2.chan.usage = true ∧ b2.stolen2 = false ∧ P.sfUnstolen = .tchHalf := by decide +kernel

theorem witness_Stolen2Lifetime :
    State.reset.block.closed = false ∧ (2 : Byte).toNat ≤ 2 ∧
    (∃ t, exec (.split 2 (bitsBytes [])) State.reset = .next t) ∧
    almostFull.block.closed = false ∧ almostFull.block.buf.length = 509 ∧
    boundary almostFull.params (almostFull.block.buf ++ [false]) = true ∧
    (∃ t, exec (.rxSymbol (bitByte false)) almostFull = .next t) ∧
    almostCoasting.block.closed = false ∧ almostCoasting.block.buf.length = 509 ∧ almostCoasting.block.sync = true ∧
    (if almostCoasting.params.countdown = .perSymbol ∧ almostCoasting.block.cnt > 0 then almostCoasting.block.cnt - 1
      else almostCoasting.block.cnt) % 510 = 0 ∧
    (∃ t, exec (.rxSymbol (bitByte false)) almostCoasting = .next t) ∧
    State.reset.block.buf.length < 509 ∧ almostSliding.block.sync = false ∧
    boundary almostSliding.params (almostSliding.block.buf ++ [false]) = false ∧
    (∃ t, exec (.rxSymbol (bitByte false)) almostSliding = .next t ∧ t.block.stolen2 = true) :=
  ⟨rfl, by decide, ⟨_, rfl⟩, rfl, by decide +kernel, by decide +kernel, ⟨_, rfl⟩, rfl, by decide +kernel, rfl,
    by decide +kernel, ⟨_, rfl⟩, by decide, rfl, by decide +kernel, ⟨_, rfl, by decide +kernel⟩⟩

theorem witness_BoundaryStampsAdvancedTime :
    almostFull.params.env = .null ∧ almostFull.block.closed = false ∧ almostFull.block.buf.length = 509 ∧
    boundary almostFull.params (almostFull.block.buf ++ [false]) = true ∧
    (∃ t, exec (.rxSymbol (bitByte false)) almostFull = .next t) :=
  ⟨rfl, rfl, by decide +kernel, by decide +kernel, ⟨_, rfl⟩⟩

theorem witness_BurstCommandFrame :
    (∃ t, exec (.split 0 []) State.reset = .next t) ∧ (∃ t, exec (.rxSymbol 1) State.reset = .next t) ∧
    State.reset.block.buf.length < 509 ∧ State.reset.params.env = .null :=
  ⟨⟨_, rfl⟩, ⟨_, rfl⟩, by decide, rfl⟩

/-- Safe states in both countdowns: reset, synchronized under `literal`, and synchronized under `per_symbol`. -/
theorem witness_StepKeepsSafe :
    (sent [0x02]).Safe ∧ (∃ t, step (sent [0x02]) = .next t) ∧
    ({ State.reset with block := { Block.initial with sync := true, cnt := 25500 } } : State).Safe ∧
    ({ State.reset with
        params := perSymbolParams
        block := { Block.initial with buf := [true], sync := true, cnt := 25499 } } : State).Safe := by
  refine ⟨?_, ⟨_, step_eq_stepped (by decide +kernel)⟩, ?_, ?_⟩ <;>
  · unfold State.Safe Block.Inv Block.BufOk Block.TimeOk Block.CellOk Block.SyncOk
    refine ⟨by decide +kernel, ?_⟩
    simp [sent, State.withPort, State.reset, State.initial, Block.initial, perSymbolParams, Params.default,
      Config.frameLen, Config.resyncInit, Config.resyncFrames, timeInRange, scode]

theorem witness_LiteralNeverLosesSync :
    (sent [0x01, 0x00]).Safe ∧ (sent [0x01, 0x00]).params.countdown = .literal ∧
    (∃ t, step (sent [0x01, 0x00]) = .next t) ∧
    ({ State.reset with block := { Block.initial with sync := true, cnt := 25500 } } : State).block.sync = true := by
  refine ⟨?_, rfl, ⟨_, step_eq_stepped (by decide +kernel)⟩, rfl⟩
  unfold State.Safe Block.Inv Block.BufOk Block.TimeOk Block.CellOk Block.SyncOk
  refine ⟨by decide +kernel, ?_⟩
  simp [sent, State.withPort, State.reset, State.initial, Block.initial, Config.frameLen, timeInRange, scode]

theorem witness_StepOnlyAppends : ∃ t, step (sent [0x07, 0x02]) = .next t := ⟨_, step_eq_stepped (by decide +kernel)⟩

/-- A whole frame, a reserved opcode and an incomplete frame. -/
theorem witness_RunAnswersEveryFrame :
    Params.default.valid = true ∧ (runBytes Params.default [0x02, 0x07, 0x30]).port = [0x30] ∧
    (runBytes Params.default [0x02, 0x07, 0x30]).responses = [⟨.ok, []⟩, ⟨.closed, []⟩] := by decide +kernel

theorem witness_PrimitivesReadOnlyClosed :
    isPrimitive (.viterbi [0, 0, 0, 0]) ∧ State.reset.block.closed = almostFull.block.closed ∧
    State.reset.params = almostFull.params ∧ State.reset.block ≠ almostFull.block :=
  ⟨trivial, rfl, rfl, by decide +kernel⟩

/-- CHAIN over three bits: its five frames are written out by the assembler. -/
theorem witness_ChainFeedsResponses :
    let v : Bits := [true, false, true]
    let s := sent (assemble (chain Params.default 3 3 1 2 v))
    s.block.closed = false ∧ v.length = (3 : Word16).toNat ∧ (3 : Word16).toNat ≠ 0 ∧
    Nat.gcd (1 : Word16).toNat (3 : Word16).toNat = 1 ∧ (3 : Word16).toNat % 3 = 0 ∧
    8 * (3 : Word16).toNat / 3 ≤ 65535 ∧ (2 : Word16).toNat ≤ 2 * ((3 : Word16).toNat / 3) ∧
    s.port = assemble (chain s.params 3 3 1 2 v) ∧ s.params.valid = true := by decide +kernel

end Sys2Proof.Tests
end

section
/-! The scope rules of spec/00_scope.md: the move of `step` on a command frame and its refusal of a parameter instance
(R5), and what the parts of `Params.valid` say (R7, R8). -/

namespace Sys2Proof

/-- R7 for one pattern, as bounds on its length. -/
theorem patternFits_iff {pat : Bits} {off : Nat} :
    patternFits pat off = true ↔
      10 ≤ pat.length ∧ pat.length ≤ 38 ∧ off + pat.length ≤ Config.frameLen := by
  simp [patternFits, and_assoc]

/-- The five training sequences, each with its offset in the burst (R6). -/
def Params.patterns (P : Params) : List (Bits × Nat) :=
  [(P.tsBegin, Config.offBegin), (P.tsEnd, Config.offEnd), (P.tsSync, Config.offSync), (P.tsNorm1, Config.offNorm),
    (P.tsNorm2, Config.offNorm)]

theorem Params.patternsFit_iff {P : Params} :
    P.patternsFit = true ↔ ∀ q ∈ P.patterns, patternFits q.1 q.2 = true := by
  simp [Params.patternsFit, Params.patterns, and_assoc]

/-- The BSCH pair of R8 is fixed and permutes, so only the two open pairs are left. -/
theorem Params.pairsPermute_iff {P : Params} :
    P.pairsPermute = true ↔ Nat.gcd P.halfA P.halfK = 1 ∧ Nat.gcd P.fullA P.fullK = 1 := by
  have hbsch : Nat.gcd Config.bschA Config.bschK = 1 := by decide
  simp [Params.pairsPermute, hbsch]

theorem Params.keepFits_iff {P : Params} :
    P.keepFits = true ↔ P.keep0 < P.keep1 ∧ P.keep1 < P.keep2 ∧ P.keep2 < Config.punctPeriod := by
  simp [Params.keepFits, and_assoc]

theorem Params.valid_iff {P : Params} :
    P.valid = true ↔ P.patternsFit = true ∧ P.pairsPermute = true ∧ P.keepFits = true ∧ P.tapsFit = true ∧
      P.classesFit = true ∧ P.layoutFits = true ∧ P.softFits = true := by
  simp [Params.valid]

theorem Params.default_valid : Params.default.valid = true := by decide +kernel

namespace Machine

theorem step_of_command {s : State} {i : Instr} {rest : List Byte} (hvalid : s.params.valid = true)
    (hframe : decodeFrame s.port = .command i rest) : step s = exec i (s.withPort rest) := by
  simp [step, hvalid, hframe]

theorem step_of_not_valid {s : State} (hvalid : ¬ s.params.valid = true) : step s = .refused .parametersRejected :=
  if_neg hvalid

end Machine

open Machine

/-- Settles O5: under a valid instance `step` dispatches on the decoded frame alone. -/
theorem stepRunsDecodedCommand : Obligations.StepRunsDecodedCommand :=
  fun _ _ _ hvalid hframe => step_of_command hvalid hframe

/-- Settles O8: each listed defect contradicts the part of `Params.valid` that states its rule. -/
theorem parameterInstanceRefused : Obligations.ParameterInstanceRefused := by
  refine ⟨fun s hbroken => step_of_not_valid fun hvalid => ?_, Params.default_valid⟩
  obtain ⟨hpatterns, hpairs, hkeep, -⟩ := Params.valid_iff.1 hvalid
  obtain ⟨hhalf, hfull⟩ := Params.pairsPermute_iff.1 hpairs
  rcases hbroken with ⟨q, hq, hunfit⟩ | hhalf' | hfull' | hkeep'
  · obtain ⟨hmin, hmax, hend⟩ := patternFits_iff.1 (Params.patternsFit_iff.1 hpatterns q hq)
    have hlen : Config.frameLen = 510 := rfl
    omega
  · exact hhalf' hhalf
  · exact hfull' hfull
  · exact hkeep' (Params.keepFits_iff.1 hkeep)

end Sys2Proof
end

section
/-! The frame decoder only takes bytes off the front of the stream (spec/30_encoding.md R38, R40). -/

namespace Sys2Proof

/-- A reader of the byte stream that leaves a tail of the stream it is given. -/
def LeavesSuffix {α : Type} (read : List Byte → Option (α × List Byte)) : Prop :=
  ∀ l a rest, read l = some (a, rest) → rest <:+ l

namespace LeavesSuffix

variable {α β : Type} {read : List Byte → Option (α × List Byte)}

theorem pure (a : α) : LeavesSuffix fun l => some (a, l) := by
  rintro l _ _ ⟨⟩
  exact List.suffix_refl l

theorem map (hread : LeavesSuffix read) (f : α → β) :
    LeavesSuffix fun l => (read l).map fun (a, l) => (f a, l) := by
  intro l b rest h
  obtain ⟨⟨a, l'⟩, hl, hb⟩ := Option.map_eq_some_iff.1 h
  cases hb
  exact hread l a rest hl

theorem bind (hread : LeavesSuffix read) {next : α → List Byte → Option (β × List Byte)}
    (hnext : ∀ a, LeavesSuffix (next a)) : LeavesSuffix fun l => (read l).bind fun (a, l) => next a l := by
  intro l b rest h
  obtain ⟨⟨a, l'⟩, hl, hl'⟩ := Option.bind_eq_some_iff.1 h
  exact (hnext a l' b rest hl').trans (hread l a l' hl)

end LeavesSuffix

theorem takeU8_leavesSuffix : LeavesSuffix takeU8
  | b :: rest, _, _, rfl => List.suffix_append [b] rest

theorem takeU16_leavesSuffix : LeavesSuffix takeU16
  | hi :: lo :: rest, _, _, rfl => List.suffix_append [hi, lo] rest

theorem takeU32_leavesSuffix : LeavesSuffix takeU32
  | b3 :: b2 :: b1 :: b0 :: rest, _, _, rfl => List.suffix_append [b3, b2, b1, b0] rest

theorem takeVec_leavesSuffix (n : Nat) : LeavesSuffix (takeVec n) := fun _ v _ h =>
  ⟨v, (takeVec_eq_some h).2.symm⟩

theorem takeCountedVec_leavesSuffix : LeavesSuffix takeCountedVec :=
  takeU16_leavesSuffix.bind fun n => takeVec_leavesSuffix n.toNat

theorem decodeOperands_leavesSuffix (o : Opcode) : LeavesSuffix (decodeOperands o) := by
  cases o with
  | rxSymbol | wrStolen2 | wrLch => exact takeU8_leavesSuffix.map _
  | eos | tdmaInc | rdState | reset => exact .pure _
  | depuncture23 | viterbi => exact takeCountedVec_leavesSuffix.map _
  | descramble => exact takeU32_leavesSuffix.bind fun _ => takeCountedVec_leavesSuffix.map _
  | crc16Check => exact takeU16_leavesSuffix.bind fun _ => takeCountedVec_leavesSuffix.map _
  | deinterleave =>
    exact takeU16_leavesSuffix.bind fun k => takeU16_leavesSuffix.bind fun _ => (takeVec_leavesSuffix k.toNat).map _
  | rmDecode => exact (takeVec_leavesSuffix 30).map _
  | classify => exact (takeVec_leavesSuffix 510).map _
  | split => exact takeU8_leavesSuffix.bind fun _ => (takeVec_leavesSuffix 510).map _
  | wrCell =>
    exact takeU8_leavesSuffix.bind fun _ => takeU16_leavesSuffix.bind fun _ => takeU16_leavesSuffix.map _
  | wrTime => exact takeU8_leavesSuffix.bind fun _ => takeU8_leavesSuffix.bind fun _ => takeU8_leavesSuffix.map _
  | wrUsage => exact takeU8_leavesSuffix.bind fun _ => takeU8_leavesSuffix.map _
  | wrFreq => exact takeU32_leavesSuffix.map _

/-- A frame the decoder takes has its opcode byte at least. -/
theorem decodeFrame_takesFrame {bytes rest : List Byte}
    (h : (∃ i, decodeFrame bytes = .command i rest) ∨ ∃ op, decodeFrame bytes = .reservedOpcode op rest) :
    ∃ frame, frame ≠ [] ∧ bytes = frame ++ rest := by
  cases bytes with
  | nil => simp [decodeFrame] at h
  | cons op l =>
    cases ho : Opcode.ofByte op with
    | none =>
      obtain rfl : l = rest := by simpa [decodeFrame, ho] using h
      exact ⟨[op], nofun, rfl⟩
    | some o =>
      cases hd : decodeOperands o l with
      | none => simp [decodeFrame, ho, hd] at h
      | some read =>
        obtain ⟨i, rest'⟩ := read
        obtain rfl : rest' = rest := by simpa [decodeFrame, ho, hd] using h
        obtain ⟨operands, rfl⟩ := decodeOperands_leavesSuffix o l i rest' hd
        exact ⟨op :: operands, nofun, rfl⟩

end Sys2Proof
end

section
/-! What a command that ends with OK leaves of the block, said once for the nineteen of them, and what the rules of
spec/10_state.md (R15 to R23) say of every step by it. -/

open Sys2Proof.Spec

namespace Sys2Proof.Machine

/-! ## Commands that end with OK -/

theorem withBits_eq_ok {d : List Byte} {k : Bits → Result} {x : Block × List Byte} (h : withBits d k = .ok x) :
    ∃ v, k v = .ok x := by
  unfold withBits at h
  split at h
  · cases h
  · exact ⟨_, h⟩

theorem withTrits_eq_ok {d : List Byte} {k : Trits → Result} {x : Block × List Byte} (h : withTrits d k = .ok x) :
    ∃ v, k v = .ok x := by
  unfold withTrits at h
  split at h
  · cases h
  · exact ⟨_, h⟩

/-- A check before the rest of a command: what ends with OK has passed it. -/
theorem unlessBad_eq_ok {bad : Prop} [Decidable bad] {c : Status} {r : Result} {x : Block × List Byte}
    (h : (if bad then .error c else r) = .ok x) : ¬ bad ∧ r = .ok x := by
  split at h
  · cases h
  · exact ⟨‹_›, h⟩

/-- The primitives and CLASSIFY leave the block as it was (R33). -/
theorem resultOf_primitive_eq_ok {P : Params} {i : Instr} {b b' : Block} {p : List Byte} (hprim : isPrimitive i)
    (h : resultOf P i b = .ok (b', p)) : b.closed = false ∧ b' = b := by
  cases i with
  | descramble | rmDecode | classify =>
    obtain ⟨hopen, h⟩ := unlessClosed_eq_ok h
    obtain ⟨v, h⟩ := withBits_eq_ok h
    cases h
    exact ⟨hopen, rfl⟩
  | deinterleave =>
    obtain ⟨hopen, h⟩ := unlessClosed_eq_ok h
    obtain ⟨v, h⟩ := withBits_eq_ok h
    obtain ⟨-, h⟩ := unlessBad_eq_ok h
    cases h
    exact ⟨hopen, rfl⟩
  | depuncture23 | crc16Check =>
    obtain ⟨hopen, h⟩ := unlessClosed_eq_ok h
    obtain ⟨-, h⟩ := unlessBad_eq_ok h
    obtain ⟨v, h⟩ := withBits_eq_ok h
    cases h
    exact ⟨hopen, rfl⟩
  | viterbi =>
    obtain ⟨hopen, h⟩ := unlessClosed_eq_ok h
    obtain ⟨-, h⟩ := unlessBad_eq_ok h
    obtain ⟨v, h⟩ := withTrits_eq_ok h
    cases h
    exact ⟨hopen, rfl⟩
  | _ => exact hprim.elim

theorem writeCommand_eq_ok {w : Write} {b b' : Block} {p : List Byte} (h : writeCommand w b = .ok (b', p)) :
    b.closed = false ∧ w.fieldsFit = true ∧ b' = w.apply b := by
  obtain ⟨hopen, h⟩ := unlessClosed_eq_ok h
  split at h
  · cases h
    exact ⟨hopen, ‹_›, rfl⟩
  · cases h

theorem rxSymbolCommand_eq_ok {P : Params} {sym : Byte} {b b' : Block} {p : List Byte}
    (h : rxSymbolCommand P sym b = .ok (b', p)) : b.closed = false ∧ ∃ x, b' = (receiveSymbol P x b).1 := by
  obtain ⟨hopen, h⟩ := unlessClosed_eq_ok h
  split at h <;> cases h
  exact ⟨hopen, _, rfl⟩

theorem splitCommand_eq_ok {P : Params} {ty : Byte} {d : List Byte} {b b' : Block} {p : List Byte}
    (h : splitCommand P ty d b = .ok (b', p)) : b.closed = false ∧ ∃ t v, b' = splitBurst P t v b := by
  obtain ⟨hopen, h⟩ := unlessClosed_eq_ok h
  obtain ⟨v, h⟩ := withBits_eq_ok h
  split at h <;> cases h
  exact ⟨hopen, _, v, rfl⟩

theorem withTime_tdmaInc_delivers (b : Block) : Delivers b (b.withTime (tdmaInc b.time)) :=
  ⟨rfl, rfl, rfl, rfl, List.prefix_refl _, tdmaInc_inRange, id⟩

/-- What a command that ends with OK does to the block. Four commands have a case of their own; every other one needs an
open block and makes only writes that `Delivers` allows. -/
inductive Completes (P : Params) (b : Block) : Instr → Block → Prop where
  | reset : Completes P b .reset (resetBlock b)
  | rdState : Completes P b .rdState b
  | eos (hopen : b.closed = false) : Completes P b .eos ((b.withBuf []).withClosed true)
  | rxSymbol (hopen : b.closed = false) (sym : Byte) (x : Bool) :
      Completes P b (.rxSymbol sym) (receiveSymbol P x b).1
  | delivers {i : Instr} {b' : Block} (hopen : b.closed = false) (heos : i ≠ .eos) (hreset : i ≠ .reset)
      (h : Delivers b b') : Completes P b i b'

theorem Completes.write {P : Params} {i : Instr} {w : Write} {b b' : Block} {p : List Byte} (heos : i ≠ .eos)
    (hreset : i ≠ .reset) (h : writeCommand w b = .ok (b', p)) : Completes P b i b' := by
  obtain ⟨hopen, hfit, rfl⟩ := writeCommand_eq_ok h
  exact .delivers hopen heos hreset (apply_delivers hfit)

theorem Completes.primitive {P : Params} {i : Instr} {b b' : Block} {p : List Byte} (hprim : isPrimitive i)
    (h : resultOf P i b = .ok (b', p)) : Completes P b i b' := by
  obtain ⟨hopen, rfl⟩ := resultOf_primitive_eq_ok hprim h
  refine .delivers hopen ?_ ?_ (.refl b') <;> rintro rfl <;> exact hprim

theorem resultOf_eq_ok {P : Params} {i : Instr} {b b' : Block} {p : List Byte} (h : resultOf P i b = .ok (b', p)) :
    Completes P b i b' := by
  cases i with
  | rxSymbol sym =>
    obtain ⟨hopen, x, rfl⟩ := rxSymbolCommand_eq_ok h
    exact .rxSymbol hopen sym x
  | eos =>
    obtain ⟨hopen, h⟩ := unlessClosed_eq_ok h
    cases h
    exact .eos hopen
  | tdmaInc =>
    obtain ⟨hopen, h⟩ := unlessClosed_eq_ok h
    cases h
    exact .delivers hopen nofun nofun (withTime_tdmaInc_delivers b)
  | split =>
    obtain ⟨hopen, t, v, rfl⟩ := splitCommand_eq_ok h
    exact .delivers hopen nofun nofun (splitBurst_delivers P t v b)
  | rdState => cases h; exact .rdState
  | reset => cases h; exact .reset
  | wrCell | wrTime | wrUsage | wrStolen2 | wrFreq | wrLch => exact .write nofun nofun h
  | descramble | deinterleave | depuncture23 | viterbi | rmDecode | crc16Check | classify =>
    exact .primitive trivial h

/-! ## What every reception of a symbol keeps -/

/-- The part of `Delivers` that the reception of a symbol keeps as well: CLOSED, the records emitted, TIME's ranges and
the SCODE equation. -/
structure Keeps (b b' : Block) : Prop where
  closed : b'.closed = b.closed
  outq : b.outq <+: b'.outq
  timeOk : b.TimeOk → b'.TimeOk
  cellOk : b.CellOk → b'.CellOk

theorem Keeps.refl (b : Block) : Keeps b b := ⟨rfl, List.prefix_refl _, id, id⟩

theorem Keeps.trans {a b c : Block} (h : Keeps a b) (k : Keeps b c) : Keeps a c :=
  ⟨k.closed.trans h.closed, h.outq.trans k.outq, k.timeOk ∘ h.timeOk, k.cellOk ∘ h.cellOk⟩

theorem Delivers.keeps {b b' : Block} (h : Delivers b b') : Keeps b b' := ⟨h.closed, h.outq, h.timeOk, h.cellOk⟩

/-- BUF, SYNC and CNT are not what `Keeps` speaks of. -/
theorem Keeps.update (b : Block) (buf : Bits) (sync : Bool) (cnt : Nat) :
    Keeps b { b with buf := buf, sync := sync, cnt := cnt } := ⟨rfl, List.prefix_refl _, id, id⟩

theorem loseSync_keeps (b : Block) : Keeps b (loseSync b) :=
  (Keeps.update b b.buf false b.cnt).trans (event_delivers _ .syncLost).keeps

theorem confirmBurst_keeps (P : Params) (b : Block) : Keeps b (confirmBurst P b) :=
  (((Keeps.update b b.buf true Config.resyncInit).trans (withTime_tdmaInc_delivers _).keeps).trans
    (processBurst_delivers P b.buf _).keeps).trans (Keeps.update _ [] _ _)

theorem checkCoastLoss_keeps (P : Params) (b : Block) : Keeps b (checkCoastLoss P b) := by
  rw [checkCoastLoss_eq]
  split
  · exact loseSync_keeps b
  · exact .refl b

/-- Coasting keeps or advances TIME (P_COAST_TIME, R53). -/
theorem coastTime_delivers (P : Params) (b : Block) :
    Delivers b (if P.coastTime then b.withTime (tdmaInc b.time) else b) := by
  split
  · exact withTime_tdmaInc_delivers b
  · exact .refl b

theorem coastBurst_keeps (P : Params) (b : Block) : Keeps b (coastBurst P b) :=
  ((((coastTime_delivers P b).trans (processBurst_delivers P b.buf _)).keeps).trans (Keeps.update _ [] _ _)).trans
    (checkCoastLoss_keeps P _)

theorem slideBuf_keeps (P : Params) (b : Block) : Keeps b (slideBuf P b) := by
  rw [slideBuf_eq]
  split
  · split
    · exact (Keeps.update b _ b.sync (b.cnt - 1)).trans (loseSync_keeps _)
    · exact .update b _ _ _
  · exact .update b _ _ _

/-- The block whose CNT is counted and whose BUF holds the symbol: what the branches of R52 start from. -/
def Block.counted (P : Params) (x : Bool) (b : Block) : Block :=
  { b with cnt := (countSymbol P b).cnt, buf := b.buf ++ [x] }

theorem receiveSymbol_eq_counted (P : Params) (x : Bool) (b : Block) :
    receiveSymbol P x b =
      let b' := b.counted P x
      if b'.buf.length < 510 then (b', false)
      else if boundary P b'.buf then (confirmBurst P b', true)
      else if b'.sync && b'.cnt % 510 == 0 then (coastBurst P b', false)
      else (slideBuf P b', false) := receiveSymbol_eq P x b

/-- The four branches of R52, for a property of the block they leave. -/
theorem receiveSymbol_induction {P : Params} {x : Bool} {b : Block} {Q : Block → Prop}
    (hshort : (b.counted P x).buf.length < 510 → Q (b.counted P x))
    (hconfirm : Q (confirmBurst P (b.counted P x)))
    (hcoast : (b.counted P x).sync = true → (b.counted P x).cnt % 510 = 0 → Q (coastBurst P (b.counted P x)))
    (hslide : 510 ≤ (b.counted P x).buf.length → ¬ ((b.counted P x).sync = true ∧ (b.counted P x).cnt % 510 = 0) →
      Q (slideBuf P (b.counted P x))) :
    Q (receiveSymbol P x b).1 := by
  rw [receiveSymbol_eq_counted]
  dsimp only
  split
  · exact hshort ‹_›
  · split
    · exact hconfirm
    · split
      next hboundary =>
        obtain ⟨hsync, hcnt⟩ := by simpa using hboundary
        exact hcoast hsync hcnt
      next hboundary => exact hslide (not_lt.1 ‹_›) (by simpa using hboundary)

theorem receiveSymbol_keeps (P : Params) (x : Bool) (b : Block) : Keeps b (receiveSymbol P x b).1 := by
  have hcounted : Keeps b (b.counted P x) := .update b _ b.sync _
  exact receiveSymbol_induction (fun _ => hcounted) (hcounted.trans (confirmBurst_keeps P _))
    (fun _ _ => hcounted.trans (coastBurst_keeps P _)) (fun _ _ => hcounted.trans (slideBuf_keeps P _))

/-! ## Records are only appended (R23, R111) -/

theorem Completes.outq_prefix {P : Params} {i : Instr} {b b' : Block} (h : Completes P b i b') : b.outq <+: b'.outq := by
  cases h with
  | reset | rdState | eos => exact List.prefix_refl _
  | rxSymbol _ _ x => exact (receiveSymbol_keeps P x b).outq
  | delivers _ _ _ h => exact h.outq

/-! ## CLOSED (R22) -/

theorem resultOf_closed {P : Params} {i : Instr} {b : Block} (hclosed : b.closed = true)
    (hi : ¬ acceptedWhenClosed i) : resultOf P i b = .error .closed := by
  cases i with
  | rdState | reset => exact absurd trivial hi
  | _ => exact unlessClosed_closed hclosed _

/-- EOS fails only on a closed block, and RESET never (R59, R111). -/
theorem resultOf_eq_error {P : Params} {i : Instr} {b : Block} {c : Status} (h : resultOf P i b = .error c) :
    (b.closed = false → i ≠ .eos) ∧ i ≠ .reset := by
  refine ⟨fun hopen => ?_, ?_⟩ <;> rintro rfl
  · simp [resultOf, eosCommand, hopen] at h
  · cases h

theorem Completes.closed_iff {P : Params} {i : Instr} {b b' : Block} (h : Completes P b i b') :
    (b.closed = false → (b'.closed = true ↔ i = .eos)) ∧ (b.closed = true → (b'.closed = false ↔ i = .reset)) := by
  cases h with
  | reset => simp [resetBlock, Block.initial]
  | rdState => simp +contextual
  | eos hopen => simp [hopen]
  | rxSymbol hopen _ x => simp [hopen, (receiveSymbol_keeps P x b).closed]
  | delivers hopen heos hreset h => simp [hopen, h.closed, heos]

end Sys2Proof.Machine
end

section
/-! The invariant of Safety.lean over one reception of a symbol (spec/40_sync.md R51 to R55), over every command, and at
reset. -/

namespace Sys2Proof.Machine

/-! ## SYNC and CNT -/

theorem Block.SyncOk.of_lost {P : Params} {b : Block} (hsync : b.sync = false) (hcnt : b.cnt = 0) : b.SyncOk P :=
  ⟨fun _ => hcnt, fun h => by simp [hsync] at h⟩

/-- Synchronized with an empty buffer and the counter at its initial value, as a confirmed boundary leaves it (R52). -/
theorem Block.SyncOk.of_resyncInit {P : Params} {b : Block} (hsync : b.sync = true) (hcnt : b.cnt = Config.resyncInit)
    (hbuf : b.buf = []) : b.SyncOk P := by
  refine ⟨fun h => by simp [hsync] at h, fun _ => ?_⟩
  split
  · exact hcnt
  · simp [hcnt, hbuf, Config.resyncInit, Config.resyncFrames, Config.frameLen]

/-- SYNC and CNT of an open block after the countdown: as `SyncOk`, but under `per_symbol` CNT may have reached 0. -/
structure Block.CountedOk (P : Params) (b : Block) : Prop where
  lost : b.sync = false → b.cnt = 0
  literal : b.sync = true → P.countdown = .literal → b.cnt = Config.resyncInit
  perSymbol : b.sync = true → P.countdown = .perSymbol →
    b.cnt ≤ Config.resyncInit ∧ (b.cnt + b.buf.length) % 510 = 0

/-- The symbol that lengthens BUF by one lowers the `per_symbol` counter by one. -/
theorem Block.counted_countedOk {P : Params} {b : Block} (hopen : b.closed = false) (h : b.SyncOk P) (x : Bool) :
    (b.counted P x).CountedOk P := by
  obtain ⟨hlost, hsynced⟩ := h
  have hcnt := countSymbol_cnt P b
  refine ⟨fun hsync => ?_, fun hsync hP => ?_, fun hsync hP => ?_⟩ <;> simp only [Block.counted] at hsync ⊢
  · simpa [hsync, hlost hsync] using hcnt
  · simpa [hP, hsync] using hcnt.trans (by simpa [hP] using hsynced hsync)
  · obtain ⟨hpos, hmax, hmod⟩ := by simpa [hP] using hsynced hsync
    have hcnt : (countSymbol P b).cnt = b.cnt - 1 := by simpa [hP, hsync, hpos] using hcnt
    have hmod : (b.cnt + b.buf.length) % 510 = 0 := hmod hopen
    rw [hcnt, List.length_append, List.length_singleton]
    omega

namespace Block.CountedOk

variable {P : Params} {b : Block} (h : b.CountedOk P)

include h

/-- Before BUF is full CNT has not reached 0. -/
theorem syncOk_of_short (hshort : b.buf.length < 510) (hne : b.buf ≠ []) : b.SyncOk P := by
  refine ⟨h.lost, fun hsync => ?_⟩
  split
  · exact h.literal hsync ‹_›
  · obtain ⟨hmax, hmod⟩ := h.perSymbol hsync ‹_›
    have hlen := List.length_pos_iff.2 hne
    exact ⟨by omega, hmax, fun _ => hmod⟩

/-- With BUF full, CNT stands at a frame boundary while synchronized: sliding is for a lost block only (R55). -/
theorem sync_eq_false_of_slide (hfull : b.buf.length = 510) (hslide : ¬ (b.sync = true ∧ b.cnt % 510 = 0)) :
    b.sync = false := by
  by_contra hsync
  rw [Bool.not_eq_false] at hsync
  refine hslide ⟨hsync, ?_⟩
  cases hP : P.countdown with
  | literal => rw [h.literal hsync hP]; decide
  | perSymbol => have hmod := (h.perSymbol hsync hP).2; omega

end Block.CountedOk

theorem confirmBurst_bufSyncCnt (P : Params) (b : Block) :
    (confirmBurst P b).buf = [] ∧ (confirmBurst P b).sync = true ∧ (confirmBurst P b).cnt = Config.resyncInit :=
  have h := processBurst_delivers P b.buf
    (((b.withSync true).withCnt Config.resyncInit).withTime (tdmaInc b.time))
  ⟨rfl, h.sync, h.cnt⟩

/-- A coast empties BUF, keeps CNT, and loses SYNC exactly where the `per_symbol` counter stands at 0 (R53, R54). -/
theorem coastBurst_bufSyncCnt (P : Params) (b : Block) :
    (coastBurst P b).buf = [] ∧ (coastBurst P b).cnt = b.cnt ∧
      (coastBurst P b).sync = if P.countdown = .perSymbol ∧ b.cnt = 0 then false else b.sync := by
  have h := (coastTime_delivers P b).trans (processBurst_delivers P b.buf _)
  unfold coastBurst
  dsimp only
  rw [checkCoastLoss_eq, Block.withBuf_cnt, h.cnt]
  split
  · exact ⟨rfl, rfl, rfl⟩
  · exact ⟨rfl, h.cnt, h.sync⟩

theorem Block.CountedOk.coastBurst_syncOk {P : Params} {b : Block} (h : b.CountedOk P) (hsync : b.sync = true)
    (hmod : b.cnt % 510 = 0) : (coastBurst P b).SyncOk P := by
  obtain ⟨hbuf, hcnt, hloss⟩ := coastBurst_bufSyncCnt P b
  cases hP : P.countdown with
  | literal =>
    exact .of_resyncInit (by simpa [hP, hsync] using hloss) (hcnt.trans (h.literal hsync hP)) hbuf
  | perSymbol =>
    by_cases hzero : b.cnt = 0
    · exact .of_lost (by simpa [hP, hzero] using hloss) (hcnt.trans hzero)
    · have hsync' : (coastBurst P b).sync = true := by simpa [hP, hzero, hsync] using hloss
      have hmax := (h.perSymbol hsync hP).1
      simp [SyncOk, hP, hsync', hcnt, hbuf, hmax, hmod, Nat.pos_of_ne_zero hzero, Config.frameLen]

/-- Sliding a lost block only discards the oldest bit. -/
theorem slideBuf_of_lost {P : Params} {b : Block} (hcnt : b.cnt = 0) :
    slideBuf P b = b.withBuf (slice b.buf 1 510) := by
  simp [slideBuf_eq, hcnt, Block.withBuf]

/-! ## The invariant -/

theorem Delivers.inv {P : Params} {b b' : Block} (h : Delivers b b') (hinv : b.Inv P) : b'.Inv P := by
  obtain ⟨hbuf, htime, hcell, hsync⟩ := hinv
  refine ⟨?_, h.timeOk htime, h.cellOk hcell, ?_⟩
  · simpa [Block.BufOk, h.buf, h.closed] using hbuf
  · simpa [Block.SyncOk, h.sync, h.cnt, h.buf, h.closed] using hsync

theorem receiveSymbol_bufSyncOk {P : Params} {b : Block} (hopen : b.closed = false) (hlen : b.buf.length < 510)
    (hsync : b.SyncOk P) (x : Bool) :
    (receiveSymbol P x b).1.buf.length < 510 ∧ (receiveSymbol P x b).1.SyncOk P := by
  have hcounted := Block.counted_countedOk hopen hsync x
  have hlen' : (b.counted P x).buf.length = b.buf.length + 1 := List.length_append
  refine receiveSymbol_induction (Q := fun c => c.buf.length < 510 ∧ c.SyncOk P) ?_ ?_ ?_ ?_
  · intro hshort
    exact ⟨hshort, hcounted.syncOk_of_short hshort (by simp [Block.counted])⟩
  · obtain ⟨hbuf, hsync', hcnt⟩ := confirmBurst_bufSyncCnt P (b.counted P x)
    exact ⟨by simp [hbuf], .of_resyncInit hsync' hcnt hbuf⟩
  · intro hsync' hmod
    exact ⟨by simp [(coastBurst_bufSyncCnt P _).1], hcounted.coastBurst_syncOk hsync' hmod⟩
  · intro hfull hslide
    have hlost := hcounted.sync_eq_false_of_slide (by omega) hslide
    rw [slideBuf_of_lost (hcounted.lost hlost)]
    refine ⟨?_, .of_lost hlost (hcounted.lost hlost)⟩
    simp [slice]

theorem receiveSymbol_inv {P : Params} {b : Block} (hopen : b.closed = false) (hinv : b.Inv P) (x : Bool) :
    (receiveSymbol P x b).1.Inv P := by
  obtain ⟨⟨hlen, -⟩, htime, hcell, hsync⟩ := hinv
  have hkeeps := receiveSymbol_keeps P x b
  obtain ⟨hlen', hsync'⟩ := receiveSymbol_bufSyncOk hopen hlen hsync x
  refine ⟨⟨hlen', fun hclosed => ?_⟩, hkeeps.timeOk htime, hkeeps.cellOk hcell, hsync'⟩
  simp [hkeeps.closed, hopen] at hclosed

/-- EOS empties BUF and keeps SYNC and CNT (R59). -/
theorem eos_inv {P : Params} {b : Block} (hinv : b.Inv P) : ((b.withBuf []).withClosed true).Inv P := by
  obtain ⟨-, htime, hcell, hlost, hsynced⟩ := hinv
  refine ⟨⟨by simp [Config.frameLen], fun _ => rfl⟩, htime, hcell, hlost, fun hsync => ?_⟩
  have hsynced := hsynced hsync
  split
  next hP => simpa [hP] using hsynced
  next hP =>
    obtain ⟨hpos, hmax, -⟩ := by simpa [hP] using hsynced
    exact ⟨hpos, hmax, nofun⟩

/-- The reset values of R27 meet the invariant. -/
theorem resetBlock_inv (P : Params) (b : Block) : (resetBlock b).Inv P :=
  have hscode : (3 : Word32) = scode 0 0 0 := by decide
  ⟨⟨Nat.zero_lt_succ _, fun _ => rfl⟩, rfl, hscode, .of_lost rfl rfl⟩

theorem Completes.inv {P : Params} {i : Instr} {b b' : Block} (h : Completes P b i b') (hinv : b.Inv P) : b'.Inv P := by
  cases h with
  | reset => exact resetBlock_inv P b
  | rdState => exact hinv
  | eos => exact eos_inv hinv
  | rxSymbol hopen _ x => exact receiveSymbol_inv hopen hinv x
  | delivers _ _ _ h => exact h.inv hinv

end Sys2Proof.Machine
end

section
/-! The statements about the state of the block (spec/10_state.md): the invariant, CLOSED, and what a step only appends
to. -/

open Sys2Proof.Spec

namespace Sys2Proof

namespace Machine

/-- The block after a step: unchanged, or what a command that ended with OK left of it. -/
def BlockAfter (P : Params) (b b' : Block) : Prop := b' = b ∨ ∃ i, Completes P b i b'

theorem exec_blockAfter {i : Instr} {s t : State} (h : exec i s = .next t) :
    BlockAfter s.params s.block t.block ∧ t.params = s.params ∧ t.port = s.port ∧
      ∃ r, t.responses = s.responses ++ [r] := by
  rcases exec_eq_next h with ⟨b, p, hr, rfl⟩ | ⟨c, -, rfl⟩
  · exact ⟨.inr ⟨i, resultOf_eq_ok hr⟩, rfl, rfl, _, rfl⟩
  · exact ⟨.inl rfl, rfl, rfl, _, rfl⟩

/-- A step takes a frame off the port, answers it once, and leaves of the block what `BlockAfter` says. -/
theorem step_blockAfter {s t : State} (h : step s = .next t) :
    BlockAfter s.params s.block t.block ∧ t.params = s.params ∧
      (∃ frame, frame ≠ [] ∧ s.port = frame ++ t.port) ∧ ∃ r, t.responses = s.responses ++ [r] := by
  rcases (step_eq_next h).2 with ⟨i, rest, hframe, hexec⟩ | ⟨op, rest, hframe, rfl⟩
  · obtain ⟨hblock, hparams, hport, hresponse⟩ := exec_blockAfter hexec
    refine ⟨hblock, hparams, ?_, hresponse⟩
    rw [hport]
    exact decodeFrame_takesFrame (.inl ⟨i, hframe⟩)
  · exact ⟨.inl rfl, rfl, decodeFrame_takesFrame (.inr ⟨op, hframe⟩), _, rfl⟩

theorem BlockAfter.inv {P : Params} {b b' : Block} (h : BlockAfter P b b') (hinv : b.Inv P) : b'.Inv P := by
  obtain rfl | ⟨_, h⟩ := h
  · exact hinv
  · exact h.inv hinv

theorem BlockAfter.outq_prefix {P : Params} {b b' : Block} (h : BlockAfter P b b') : b.outq <+: b'.outq := by
  obtain rfl | ⟨_, h⟩ := h
  · exact List.prefix_refl _
  · exact h.outq_prefix

end Machine

open Machine

/-- Settles O55: a step keeps the parameters, and what it leaves of the block keeps the invariant. -/
theorem stepKeepsSafe : Obligations.StepKeepsSafe := by
  rintro s t ⟨hvalid, hinv⟩ hstep
  obtain ⟨hblock, hparams, -⟩ := step_blockAfter hstep
  refine ⟨hparams ▸ hvalid, ?_⟩
  rw [hparams]
  exact hblock.inv hinv

/-- Settles O11: by the two ends of a command, OK and a fault. -/
theorem closedUntilReset : Obligations.ClosedUntilReset := by
  intro i s t hexec
  rcases exec_eq_next hexec with ⟨b, p, hr, rfl⟩ | ⟨c, hr, rfl⟩
  · obtain ⟨hopen, hclosed⟩ := (resultOf_eq_ok hr).closed_iff
    refine ⟨hopen, hclosed, fun hclosed hi => ?_⟩
    rw [resultOf_closed hclosed hi] at hr
    cases hr
  · obtain ⟨heos, hreset⟩ := resultOf_eq_error hr
    refine ⟨fun hopen => by simp [hopen, heos hopen], fun hclosed => by simp [hclosed, hreset], fun hclosed hi => ?_⟩
    rw [resultOf_closed hclosed hi] at hr
    cases hr
    rfl

/-- Settles O57: a step takes the frame it decodes, and the block's records are only appended to. -/
theorem stepOnlyAppends : Obligations.StepOnlyAppends := by
  intro s t hstep
  obtain ⟨hblock, hparams, hframe, hresponse⟩ := step_blockAfter hstep
  exact ⟨hframe, hresponse, hblock.outq_prefix, hparams⟩

/-- Settles O54: the reset block meets the invariant under any parameters, and the listed defaults are valid. -/
theorem resetStateIsSafe : Obligations.ResetStateIsSafe :=
  ⟨Params.default_valid, resetBlock_inv Params.default Block.initial⟩

end Sys2Proof
end

section
/-! R33 (spec/20_memory.md): the primitives and CLASSIFY read of the block only CLOSED, and write none of it. A predicate
on commands, one rule per check a command is built from, and the seven commands assembled from the rules. -/

open Sys2Proof.Spec

namespace Sys2Proof.Machine

/-- A command whose answer is a function of CLOSED alone, with the block left as it was. -/
def ReadsOnlyClosed (command : Block → Result) : Prop :=
  ∃ answer : Bool → Except Status (List Byte), ∀ b, command b = (answer b.closed).map fun p => (b, p)

namespace ReadsOnlyClosed

variable {command : Block → Result}

theorem ok (p : List Byte) : ReadsOnlyClosed fun b => .ok (b, p) := ⟨fun _ => .ok p, fun _ => rfl⟩

theorem error (c : Status) : ReadsOnlyClosed fun _ => .error c := ⟨fun _ => .error c, fun _ => rfl⟩

theorem unlessBad {bad : Prop} [Decidable bad] (c : Status) (h : ReadsOnlyClosed command) :
    ReadsOnlyClosed fun b => if bad then .error c else command b := by
  split
  · exact error c
  · exact h

theorem withBits (d : List Byte) {command : Bits → Block → Result} (h : ∀ v, ReadsOnlyClosed (command v)) :
    ReadsOnlyClosed fun b => withBits d fun v => command v b := by
  unfold Machine.withBits
  split
  · exact error .badElement
  · exact h _

theorem withTrits (d : List Byte) {command : Trits → Block → Result} (h : ∀ v, ReadsOnlyClosed (command v)) :
    ReadsOnlyClosed fun b => withTrits d fun v => command v b := by
  unfold Machine.withTrits
  split
  · exact error .badElement
  · exact h _

theorem unlessClosed (h : ReadsOnlyClosed command) : ReadsOnlyClosed fun b => unlessClosed b (command b) := by
  obtain ⟨answer, hanswer⟩ := h
  refine ⟨fun closed => if closed then .error .closed else answer closed, fun b => ?_⟩
  cases hclosed : b.closed with
  | true => exact unlessClosed_closed hclosed _
  | false => simp [hclosed, hanswer]

/-- What such a command answers is the same response on every state with that CLOSED, and the only thing it adds. -/
theorem finish_eq_respond (h : ReadsOnlyClosed command) (closed : Bool) :
    ∃ r, ∀ s : State, s.block.closed = closed → finish s (command s.block) = .next (s.respond r) := by
  obtain ⟨answer, hanswer⟩ := h
  cases ha : answer closed with
  | ok p => exact ⟨⟨.ok, p⟩, fun s hs => by rw [hanswer, hs, ha]; rfl⟩
  | error c => exact ⟨⟨c, []⟩, fun s hs => by rw [hanswer, hs, ha]; rfl⟩

end ReadsOnlyClosed

theorem resultOf_primitive_readsOnlyClosed (P : Params) {i : Instr} (hprim : isPrimitive i) :
    ReadsOnlyClosed (resultOf P i) := by
  cases i with
  | descramble | rmDecode | classify => exact .unlessClosed (.withBits _ fun _ => .ok _)
  | deinterleave => exact .unlessClosed (.withBits _ fun _ => .unlessBad _ (.ok _))
  | depuncture23 | crc16Check => exact .unlessClosed (.unlessBad _ (.withBits _ fun _ => .ok _))
  | viterbi => exact .unlessClosed (.unlessBad _ (.withTrits _ fun _ => .ok _))
  | _ => exact hprim.elim

theorem exec_primitive_eq_respond {i : Instr} (hprim : isPrimitive i) (P : Params) (closed : Bool) :
    ∃ r, ∀ s : State, s.params = P → s.block.closed = closed → exec i s = .next (s.respond r) := by
  obtain ⟨r, hr⟩ := (resultOf_primitive_readsOnlyClosed P hprim).finish_eq_respond closed
  refine ⟨r, fun s hparams hclosed => ?_⟩
  rw [exec_eq_finish, hparams]
  exact hr s hclosed

end Sys2Proof.Machine

namespace Sys2Proof

open Machine

/-- Settles O59: both states get the one response that their common CLOSED and parameters determine. -/
theorem primitivesReadOnlyClosed : Obligations.PrimitivesReadOnlyClosed := by
  intro i s s' hprim hclosed hparams
  obtain ⟨r, hr⟩ := exec_primitive_eq_respond hprim s.params s.block.closed
  exact ⟨r, hr s rfl rfl, hr s' hparams.symm hclosed.symm⟩

end Sys2Proof
end

section
/-! The frame decoder and the encoder are inverse to each other (spec/30_encoding.md R38 to R41). -/

namespace Sys2Proof

/-! ## What a field reader that succeeds has read -/

theorem takeU8_eq_some_iff {l rest : List Byte} {b : Byte} : takeU8 l = some (b, rest) ↔ l = b :: rest := by
  cases l <;> simp [takeU8]

theorem takeU16_eq_some_iff {l rest : List Byte} {w : Word16} :
    takeU16 l = some (w, rest) ↔ l = u16Bytes w ++ rest := by
  constructor
  · intro h
    match l, h with
    | hi :: lo :: _, rfl => rw [u16Bytes_join]; rfl
  · rintro rfl
    exact takeU16_bytes w rest

theorem takeU32_eq_some_iff {l rest : List Byte} {w : Word32} :
    takeU32 l = some (w, rest) ↔ l = u32Bytes w ++ rest := by
  constructor
  · intro h
    match l, h with
    | b3 :: b2 :: b1 :: b0 :: _, rfl => rw [u32Bytes_join]; rfl
  · rintro rfl
    exact takeU32_bytes w rest

theorem takeVec_eq_some_iff {n : Nat} {l v rest : List Byte} :
    takeVec n l = some (v, rest) ↔ v.length = n ∧ l = v ++ rest := by
  refine ⟨takeVec_eq_some, ?_⟩
  rintro ⟨rfl, rfl⟩
  exact takeVec_append v rest

theorem vecFits_of_le {d : List Byte} (h : d.length ≤ 65535) : vecFits d = true := decide_eq_true h

theorem takeCountedVec_eq_some_iff {l d rest : List Byte} :
    takeCountedVec l = some (d, rest) ↔ vecFits d = true ∧ l = countedVec d ++ rest := by
  constructor
  · intro h
    obtain ⟨⟨n, l'⟩, hn, hd⟩ := Option.bind_eq_some_iff.1 h
    obtain ⟨hlen, rfl⟩ := takeVec_eq_some hd
    rw [takeU16_eq_some_iff] at hn
    have hlt := n.isLt
    refine ⟨vecFits_of_le (by omega), ?_⟩
    simp [hn, countedVec, hlen]
  · rintro ⟨hfits, rfl⟩
    exact takeCountedVec_append hfits rest

/-! ## Operands and frames -/

theorem decodeOperands_operandBytes : ∀ i : Instr, Laws.Operands.Statement i
  | .rxSymbol sym => Laws.Operands.rxSymbol sym
  | .eos => Laws.Operands.eos
  | .tdmaInc => Laws.Operands.tdmaInc
  | .descramble seed d => Laws.Operands.descramble seed d
  | .deinterleave k a d => Laws.Operands.deinterleave k a d
  | .depuncture23 d => Laws.Operands.depuncture23 d
  | .viterbi d => Laws.Operands.viterbi d
  | .rmDecode d => Laws.Operands.rmDecode d
  | .crc16Check len d => Laws.Operands.crc16Check len d
  | .classify d => Laws.Operands.classify d
  | .split ty d => Laws.Operands.split ty d
  | .wrCell cc mcc mnc => Laws.Operands.wrCell cc mcc mnc
  | .wrTime tn fn mn => Laws.Operands.wrTime tn fn mn
  | .wrUsage usage marker => Laws.Operands.wrUsage usage marker
  | .wrStolen2 flag => Laws.Operands.wrStolen2 flag
  | .wrFreq freq => Laws.Operands.wrFreq freq
  | .wrLch lch => Laws.Operands.wrLch lch
  | .rdState => Laws.Operands.rdState
  | .reset => Laws.Operands.reset

/-- The operand reader of an opcode succeeds only on the operand fields of one of its well-formed instructions. -/
theorem decodeOperands_eq_some {o : Opcode} {l rest : List Byte} {i : Instr} (h : decodeOperands o l = some (i, rest)) :
    i.opcode = o ∧ i.wf = true ∧ l = i.operandBytes ++ rest := by
  cases o <;>
    simp only [decodeOperands, Option.bind_eq_some_iff, Option.map_eq_some_iff, Option.some.injEq, Prod.exists,
      Prod.mk.injEq, takeU8_eq_some_iff, takeU16_eq_some_iff, takeU32_eq_some_iff, takeVec_eq_some_iff,
      takeCountedVec_eq_some_iff] at h
  case eos | tdmaInc | rdState | reset =>
    obtain ⟨rfl, rfl⟩ := h
    exact ⟨rfl, rfl, rfl⟩
  case rxSymbol | wrStolen2 | wrLch | wrFreq =>
    obtain ⟨x, _, rfl, rfl, rfl⟩ := h
    exact ⟨rfl, rfl, rfl⟩
  case wrUsage =>
    obtain ⟨usage, _, rfl, marker, _, rfl, rfl, rfl⟩ := h
    exact ⟨rfl, rfl, rfl⟩
  case wrTime =>
    obtain ⟨tn, _, rfl, fn, _, rfl, mn, _, rfl, rfl, rfl⟩ := h
    exact ⟨rfl, rfl, rfl⟩
  case wrCell =>
    obtain ⟨cc, _, rfl, mcc, _, rfl, mnc, _, rfl, rfl, rfl⟩ := h
    exact ⟨rfl, rfl, rfl⟩
  case depuncture23 | viterbi =>
    obtain ⟨d, _, ⟨hfits, rfl⟩, rfl, rfl⟩ := h
    exact ⟨rfl, hfits, rfl⟩
  case rmDecode | classify =>
    obtain ⟨d, _, ⟨hlen, rfl⟩, rfl, rfl⟩ := h
    exact ⟨rfl, beq_iff_eq.2 hlen, rfl⟩
  case split =>
    obtain ⟨ty, _, rfl, d, _, ⟨hlen, rfl⟩, rfl, rfl⟩ := h
    exact ⟨rfl, beq_iff_eq.2 hlen, rfl⟩
  case descramble | crc16Check =>
    obtain ⟨x, _, rfl, d, _, ⟨hfits, rfl⟩, rfl, rfl⟩ := h
    exact ⟨rfl, hfits, (List.append_assoc ..).symm⟩
  case deinterleave =>
    obtain ⟨k, _, rfl, a, _, rfl, d, _, ⟨hlen, rfl⟩, rfl, rfl⟩ := h
    exact ⟨rfl, beq_iff_eq.2 hlen, by simp [Instr.operandBytes]⟩

theorem decodeFrame_encode {i : Instr} (hwf : i.wf = true) (rest : List Byte) :
    decodeFrame (encode i ++ rest) = .command i rest := by
  simp [encode, decodeFrame, Opcode.ofByte_code, decodeOperands_operandBytes i hwf rest]

/-- The three frames a byte stream can begin with, each by what its opcode byte and its operand reader say. -/
theorem decodeFrame_cons (op : Byte) (l : List Byte) :
    (Opcode.ofByte op = none ∧ decodeFrame (op :: l) = .reservedOpcode op l) ∨
    ∃ o : Opcode, op = o.code ∧
      ((decodeOperands o l = none ∧ decodeFrame (op :: l) = .incomplete) ∨
       ∃ i rest, decodeOperands o l = some (i, rest) ∧ decodeFrame (op :: l) = .command i rest) := by
  cases ho : Opcode.ofByte op with
  | none => exact .inl ⟨rfl, by simp [decodeFrame, ho]⟩
  | some o =>
    refine .inr ⟨o, (Opcode.code_of_ofByte ho).symm, ?_⟩
    cases hd : decodeOperands o l with
    | none => exact .inl ⟨rfl, by simp [decodeFrame, ho, hd]⟩
    | some read => exact .inr ⟨read.1, read.2, rfl, by simp [decodeFrame, ho, hd]⟩

theorem decodeFrame_eq_command {bytes rest : List Byte} {i : Instr} (h : decodeFrame bytes = .command i rest) :
    i.wf = true ∧ bytes = encode i ++ rest := by
  cases bytes with
  | nil => cases h
  | cons op l =>
    obtain ⟨-, hframe⟩ | ⟨o, rfl, ⟨-, hframe⟩ | ⟨i', rest', hoperands, hframe⟩⟩ := decodeFrame_cons op l
    · cases hframe.symm.trans h
    · cases hframe.symm.trans h
    · cases hframe.symm.trans h
      obtain ⟨rfl, hwf, rfl⟩ := decodeOperands_eq_some hoperands
      exact ⟨hwf, rfl⟩

theorem decodeFrame_eq_command_iff {bytes rest : List Byte} {i : Instr} :
    decodeFrame bytes = .command i rest ↔ i.wf = true ∧ bytes = encode i ++ rest := by
  refine ⟨decodeFrame_eq_command, ?_⟩
  rintro ⟨hwf, rfl⟩
  exact decodeFrame_encode hwf rest

theorem decodeFrame_eq_reservedOpcode {bytes rest : List Byte} {op : Byte}
    (h : decodeFrame bytes = .reservedOpcode op rest) : Opcode.ofByte op = none ∧ bytes = op :: rest := by
  cases bytes with
  | nil => cases h
  | cons op' l =>
    obtain ⟨hop, hframe⟩ | ⟨o, rfl, ⟨-, hframe⟩ | ⟨i, rest', -, hframe⟩⟩ := decodeFrame_cons op' l
    · cases hframe.symm.trans h
      exact ⟨hop, rfl⟩
    · cases hframe.symm.trans h
    · cases hframe.symm.trans h

/-- A frame with nothing after it. -/
theorem decodeFrame_of_encode_eq {i : Instr} {bytes : List Byte} (hwf : i.wf = true) (hbytes : encode i = bytes) :
    decodeFrame bytes = .command i [] :=
  decodeFrame_eq_command_iff.2 ⟨hwf, by simp [hbytes]⟩

/-- Settles O1: by the operand readers, one per opcode. -/
theorem decodeOfEncode : Obligations.DecodeOfEncode := fun _ rest hwf => decodeFrame_encode hwf rest

/-- Settles O2: the opcode byte names the command, and its operand reader has read that command's fields. -/
theorem encodeOfDecode : Obligations.EncodeOfDecode := fun _ _ _ h => decodeFrame_eq_command h

/-- Settles O4: each written frame is the encoding of its command. -/
theorem writtenFramesDecode : Obligations.WrittenFramesDecode :=
  ⟨decodeFrame_of_encode_eq rfl rfl, decodeFrame_of_encode_eq rfl rfl, decodeFrame_of_encode_eq rfl rfl,
    decodeFrame_of_encode_eq rfl rfl, decodeFrame_of_encode_eq rfl rfl, decodeFrame_of_encode_eq rfl rfl,
    decodeFrame_of_encode_eq rfl rfl, decodeFrame_of_encode_eq rfl rfl⟩

end Sys2Proof
end

section
/-! The length of a frame is found from its header (spec/30_encoding.md R40, R41, R44). -/

namespace Sys2Proof

/-- A reader of the byte stream that takes `need l` bytes off a stream `l`, and fails only on a stream shorter than
that. -/
def TakesExactly {α : Type} (read : List Byte → Option (α × List Byte)) (need : List Byte → Nat) : Prop :=
  ∀ l, (∀ a rest, read l = some (a, rest) → l.length = need l + rest.length) ∧ (read l = none → l.length < need l)

namespace TakesExactly

variable {α β : Type} {read : List Byte → Option (α × List Byte)} {need : List Byte → Nat}

theorem pure (a : α) : TakesExactly (fun l => some (a, l)) fun _ => 0 := by
  refine fun l => ⟨?_, nofun⟩
  rintro _ _ ⟨⟩
  exact (Nat.zero_add _).symm

theorem map (hread : TakesExactly read need) (f : α → β) :
    TakesExactly (fun l => (read l).map fun (a, l) => (f a, l)) need := by
  refine fun l => ⟨fun b rest h => ?_, fun h => (hread l).2 (Option.map_eq_none_iff.1 h)⟩
  obtain ⟨⟨a, l'⟩, hl, hb⟩ := Option.map_eq_some_iff.1 h
  cases hb
  exact (hread l).1 a rest hl

/-- A field of `n` bytes, and after it a reader whose need the whole stream tells. -/
theorem bind {n : Nat} (hread : TakesExactly read fun _ => n) {next : α → List Byte → Option (β × List Byte)}
    {needNext : α → List Byte → Nat} (hnext : ∀ a, TakesExactly (next a) (needNext a)) (hmin : ∀ l, n ≤ need l)
    (hneed : ∀ l a rest, read l = some (a, rest) → need l = n + needNext a rest) :
    TakesExactly (fun l => (read l).bind fun (a, l) => next a l) need := by
  intro l
  dsimp only
  cases hl : read l with
  | none => exact ⟨nofun, fun _ => ((hread l).2 hl).trans_le (hmin l)⟩
  | some taken =>
    obtain ⟨a, l'⟩ := taken
    have hlen : l.length = n + l'.length := (hread l).1 a l' hl
    obtain ⟨htakes, hfails⟩ := hnext a l'
    rw [Option.bind_some, hneed l a l' hl, hlen]
    refine ⟨fun b rest h => ?_, fun h => Nat.add_lt_add_left (hfails h) n⟩
    rw [htakes b rest h, Nat.add_assoc]

/-- Two fields of fixed lengths. -/
theorem bind_fixed {n m : Nat} (hread : TakesExactly read fun _ => n) {next : α → List Byte → Option (β × List Byte)}
    (hnext : ∀ a, TakesExactly (next a) fun _ => m) :
    TakesExactly (fun l => (read l).bind fun (a, l) => next a l) fun _ => n + m :=
  hread.bind hnext (fun _ => Nat.le_add_right ..) fun _ _ _ _ => rfl

end TakesExactly

theorem takeU8_takesExactly : TakesExactly takeU8 fun _ => 1 := by
  rintro (_ | ⟨b, l⟩) <;> simp +arith [takeU8]

theorem takeU16_takesExactly : TakesExactly takeU16 fun _ => 2 := by
  rintro (_ | ⟨hi, _ | ⟨lo, l⟩⟩) <;> simp +arith [takeU16]

theorem takeU32_takesExactly : TakesExactly takeU32 fun _ => 4 := by
  rintro (_ | ⟨b3, _ | ⟨b2, _ | ⟨b1, _ | ⟨b0, l⟩⟩⟩⟩) <;> simp +arith [takeU32]

theorem takeVec_takesExactly (n : Nat) : TakesExactly (takeVec n) fun _ => n := by
  refine fun l => ⟨fun v rest h => ?_, takeVec_eq_none⟩
  obtain ⟨rfl, rfl⟩ := takeVec_eq_some h
  exact List.length_append

theorem takeU16_toNat : ∀ l w rest, takeU16 l = some (w, rest) → w.toNat = u16At l 0
  | _ :: _ :: _, _, _, rfl => rfl

theorem takeCountedVec_takesExactly : TakesExactly takeCountedVec fun l => 2 + u16At l 0 :=
  takeU16_takesExactly.bind (fun n => takeVec_takesExactly n.toNat) (fun _ => Nat.le_add_right ..)
    fun l n rest h => by rw [takeU16_toNat l n rest h]

/-- The bytes of a command's operand fields, from the fields themselves (R41). -/
def Opcode.operandLength (o : Opcode) (l : List Byte) : Nat :=
  match o with
  | .eos | .tdmaInc | .rdState | .reset => 0
  | .rxSymbol | .wrStolen2 | .wrLch => 1
  | .wrUsage => 2
  | .wrTime => 3
  | .wrFreq => 4
  | .wrCell => 5
  | .rmDecode => 30
  | .classify => 510
  | .split => 511
  | .depuncture23 | .viterbi => 2 + u16At l 0
  | .deinterleave => 4 + u16At l 0
  | .crc16Check => 4 + u16At l 2
  | .descramble => 6 + u16At l 4

theorem u16At_cons_succ (b : Byte) (l : List Byte) (k : Nat) : u16At (b :: l) (k + 1) = u16At l k := rfl

theorem frameLength_code_cons (o : Opcode) (l : List Byte) :
    frameLength (o.code :: l) = 1 + o.operandLength l := by
  cases o <;> simp [frameLength, Opcode.ofByte_code, Opcode.operandLength, u16At_cons_succ] <;> omega

theorem frameLength_of_ofByte_eq_none {op : Byte} (h : Opcode.ofByte op = none) (l : List Byte) :
    frameLength (op :: l) = 1 := by
  simp [frameLength, h]

theorem decodeOperands_takesExactly (o : Opcode) : TakesExactly (decodeOperands o) o.operandLength := by
  cases o with
  | eos | tdmaInc | rdState | reset => exact .pure _
  | rxSymbol | wrStolen2 | wrLch => exact takeU8_takesExactly.map _
  | wrFreq => exact takeU32_takesExactly.map _
  | depuncture23 | viterbi => exact takeCountedVec_takesExactly.map _
  | rmDecode => exact (takeVec_takesExactly 30).map _
  | classify => exact (takeVec_takesExactly 510).map _
  | split => exact takeU8_takesExactly.bind_fixed fun _ => (takeVec_takesExactly 510).map _
  | wrUsage => exact takeU8_takesExactly.bind_fixed fun _ => takeU8_takesExactly.map _
  | wrTime =>
    exact takeU8_takesExactly.bind_fixed fun _ => takeU8_takesExactly.bind_fixed fun _ => takeU8_takesExactly.map _
  | wrCell =>
    exact takeU8_takesExactly.bind_fixed fun _ => takeU16_takesExactly.bind_fixed fun _ => takeU16_takesExactly.map _
  | descramble =>
    refine takeU32_takesExactly.bind (fun _ => takeCountedVec_takesExactly.map _) (fun l => ?_) ?_
    · simp only [Opcode.operandLength]; omega
    · rintro (_ | ⟨b3, _ | ⟨b2, _ | ⟨b1, _ | ⟨b0, l⟩⟩⟩⟩) _ _ ⟨⟩
      simp only [Opcode.operandLength, u16At_cons_succ]; omega
  | crc16Check =>
    refine takeU16_takesExactly.bind (fun _ => takeCountedVec_takesExactly.map _) (fun l => ?_) ?_
    · simp only [Opcode.operandLength]; omega
    · rintro (_ | ⟨hi, _ | ⟨lo, l⟩⟩) _ _ ⟨⟩
      simp only [Opcode.operandLength, u16At_cons_succ]; omega
  | deinterleave =>
    refine takeU16_takesExactly.bind
      (fun k => takeU16_takesExactly.bind_fixed fun _ => (takeVec_takesExactly k.toNat).map _) (fun l => ?_) ?_
    · simp only [Opcode.operandLength]; omega
    · intro l k rest h
      rw [takeU16_toNat l k rest h, Opcode.operandLength]; omega

/-- Settles O3: what a frame is, by its opcode byte, and what the operand reader of that opcode takes. -/
theorem frameLengthFromHeader : Obligations.FrameLengthFromHeader := by
  intro bytes
  cases bytes with
  | nil => exact ⟨nofun, nofun, by decide⟩
  | cons op l =>
    obtain ⟨hop, hframe⟩ | ⟨o, rfl, hread⟩ := decodeFrame_cons op l
    · rw [hframe, frameLength_of_ofByte_eq_none hop]
      refine ⟨nofun, ?_, by simp⟩
      rintro _ _ ⟨⟩
      exact ⟨rfl, rfl⟩
    · obtain ⟨htakes, hfails⟩ := decodeOperands_takesExactly o l
      rw [frameLength_code_cons, List.length_cons]
      obtain ⟨hnone, hframe⟩ | ⟨i, rest, hsome, hframe⟩ := hread <;> rw [hframe]
      · have hshort := hfails hnone
        exact ⟨nofun, nofun, by simp; omega⟩
      · have hlen := htakes i rest hsome
        refine ⟨?_, nofun, by simp; omega⟩
        rintro _ _ ⟨⟩
        omega

end Sys2Proof
end

section
/-! A step on a reserved opcode, a step without a whole frame, and the frames a run answers (spec/30_encoding.md R38, R40,
R44; spec/70_reset_and_hazards.md R113). -/

open Sys2Proof.Spec

namespace Sys2Proof

/-! ## Whole frames -/

theorem frameLength_encode {i : Instr} (hwf : i.wf = true) : frameLength (encode i) = (encode i).length := by
  have hframe : decodeFrame (encode i) = .command i [] := decodeFrame_of_encode_eq hwf rfl
  simpa using ((frameLengthFromHeader (encode i)).1 i [] hframe).symm

/-- The opcode map has no entry exactly at the opcodes of R44's list. -/
theorem Opcode.ofByte_eq_none_iff (op : Byte) : Opcode.ofByte op = none ↔ reserved op := by
  simp only [Opcode.ofByte, List.find?_eq_none, Opcode.all, List.forall_mem_cons, Opcode.code, beq_iff_eq, reserved]
  simp [← BitVec.toNat_inj]
  omega

theorem decodeFrame_of_reserved {op : Byte} (h : reserved op) (rest : List Byte) :
    decodeFrame (op :: rest) = .reservedOpcode op rest := by
  simp [decodeFrame, (Opcode.ofByte_eq_none_iff op).2 h]

namespace Machine

theorem step_of_reservedOpcode {s : State} {op : Byte} {rest : List Byte} (hvalid : s.params.valid = true)
    (hframe : decodeFrame s.port = .reservedOpcode op rest) : step s = .next (rejectOpcode (s.withPort rest)) := by
  simp [step, hvalid, hframe]

theorem step_of_incomplete {s : State} (hvalid : s.params.valid = true) (hframe : decodeFrame s.port = .incomplete) :
    step s = .fault (if s.port.isEmpty then .portEmpty else .incompleteFrame) := by
  simp [step, hvalid, hframe]

theorem exists_exec_eq_next (i : Instr) (s : State) : ∃ t, exec i s = .next t := by
  rw [exec_eq_finish]
  rcases finish_cases s (resultOf s.params i s.block) with ⟨b, p, -, h⟩ | ⟨c, -, h⟩
  · exact ⟨_, h⟩
  · exact ⟨_, h⟩

/-- A step under a valid instance makes a move, or stands before a port without a whole frame. -/
theorem step_cases {s : State} (hvalid : s.params.valid = true) :
    (decodeFrame s.port ≠ .incomplete ∧ ∃ t, step s = .next t) ∨
    (decodeFrame s.port = .incomplete ∧
      step s = .fault (if s.port.isEmpty then .portEmpty else .incompleteFrame)) := by
  cases hframe : decodeFrame s.port with
  | command i rest =>
    rw [step_of_command hvalid hframe]
    exact .inl ⟨nofun, exists_exec_eq_next i _⟩
  | reservedOpcode op rest => exact .inl ⟨nofun, _, step_of_reservedOpcode hvalid hframe⟩
  | incomplete => exact .inr ⟨rfl, step_of_incomplete hvalid hframe⟩

/-- What a step takes off the port is one whole frame (R40). -/
theorem step_takesWholeFrame {s t : State} (h : step s = .next t) :
    ∃ frame, frameLength frame = frame.length ∧ s.port = frame ++ t.port := by
  rcases (step_eq_next h).2 with ⟨i, rest, hframe, hexec⟩ | ⟨op, rest, hframe, rfl⟩
  · obtain ⟨hwf, hport⟩ := decodeFrame_eq_command hframe
    obtain ⟨-, -, hrest, -⟩ := exec_blockAfter hexec
    exact ⟨encode i, frameLength_encode hwf, by rw [hport, hrest]; rfl⟩
  · obtain ⟨hop, hport⟩ := decodeFrame_eq_reservedOpcode hframe
    exact ⟨[op], frameLength_of_ofByte_eq_none hop [], hport⟩

/-- What a run leaves when it has enough steps for the bytes at the port: whole frames answered, and no whole frame left
(R113). -/
structure AnswersFrames (s t : State) : Prop where
  stopped : decodeFrame t.port = .incomplete
  answered : ∃ frames : List (List Byte), s.port = frames.flatten ++ t.port ∧
    t.responses.length = s.responses.length + frames.length ∧ ∀ f ∈ frames, frameLength f = f.length

theorem AnswersFrames.cons {s u t : State} (hstep : step s = .next u) (h : AnswersFrames u t) : AnswersFrames s t := by
  obtain ⟨hstopped, frames, hport, hresponses, hwhole⟩ := h
  obtain ⟨frame, hframe, hsplit⟩ := step_takesWholeFrame hstep
  obtain ⟨-, -, -, r, hr⟩ := step_blockAfter hstep
  refine ⟨hstopped, frame :: frames, by simp [hsplit, hport], ?_, by simpa [hframe] using hwhole⟩
  rw [hresponses, hr, List.length_append, List.length_singleton, List.length_cons]
  omega

theorem run_answersFrames {n : Nat} {s : State} (hvalid : s.params.valid = true) (hn : s.port.length ≤ n) :
    AnswersFrames s (run n s) := by
  induction n generalizing s with
  | zero =>
    have hport : s.port = [] := List.eq_nil_of_length_eq_zero (Nat.le_zero.1 hn)
    exact ⟨by rw [run, hport]; rfl, [], rfl, rfl, nofun⟩
  | succ n ih =>
    obtain ⟨-, t, hstep⟩ | ⟨hframe, hstep⟩ := step_cases hvalid
    · obtain ⟨-, hparams, ⟨frame, hne, hsplit⟩, -⟩ := step_blockAfter hstep
      have hshorter : t.port.length ≤ n := by
        have hpos := List.length_pos_iff.2 hne
        rw [hsplit, List.length_append] at hn
        omega
      simpa only [run, hstep] using (ih (hparams ▸ hvalid) hshorter).cons hstep
    · simp only [run, hstep]
      exact ⟨hframe, [], rfl, rfl, nofun⟩

end Machine

open Machine

/-- Settles O6: the opcode map against R44's list, and the step on a one-byte frame. -/
theorem reservedOpcodeAnswered : Obligations.ReservedOpcodeAnswered := by
  refine ⟨Opcode.ofByte_eq_none_iff, fun s op rest hvalid hop hport => ?_⟩
  exact step_of_reservedOpcode hvalid (hport ▸ decodeFrame_of_reserved hop rest)

/-- Settles O7: a step faults exactly where the decoder finds no whole frame, which its length tells. -/
theorem stuckWithoutWholeFrame : Obligations.StuckWithoutWholeFrame := by
  intro s hvalid
  rw [← (frameLengthFromHeader s.port).2.2]
  obtain ⟨hframe, t, hstep⟩ | ⟨hframe, hstep⟩ := step_cases hvalid <;> rw [hstep]
  · refine ⟨by simp [hframe], nofun, fun hport => absurd ?_ hframe⟩
    rw [hport]
    rfl
  · refine ⟨by simp [hframe], ?_⟩
    cases s.port <;> simp

/-- Settles O58: by induction on the steps of the run, each taking one whole frame and answering it. -/
theorem runAnswersEveryFrame : Obligations.RunAnswersEveryFrame := by
  intro P bytes hvalid
  obtain ⟨hstopped, frames, hport, hresponses, hwhole⟩ :=
    run_answersFrames (s := (State.initial P).withPort bytes) hvalid le_rfl
  exact ⟨hstopped, frames, hport, hresponses.trans (Nat.zero_add _), hwhole⟩

end Sys2Proof
end

section
/-! The commands of CHAIN (spec/30_encoding.md R46): the primitives on operands they accept, and a program of commands that
all end with OK and leave the block. -/

namespace Sys2Proof.Machine

/-! ## Programs -/

theorem step_of_encode {s : State} {i : Instr} {rest : List Byte} (hvalid : s.params.valid = true)
    (hwf : i.wf = true) (hport : s.port = encode i ++ rest) : step s = exec i (s.withPort rest) :=
  step_of_command hvalid (hport ▸ decodeFrame_encode hwf rest)

/-- On a block `b` command `i` ends with OK and payload `p`, and the block stays as it is. -/
def Answers (P : Params) (b : Block) (i : Instr) (p : List Byte) : Prop :=
  i.wf = true ∧ resultOf P i b = .ok (b, p)

theorem step_of_answers {s : State} {i : Instr} {p rest : List Byte} (hvalid : s.params.valid = true)
    (h : Answers s.params s.block i p) (hport : s.port = encode i ++ rest) :
    step s = .next ((s.withPort rest).respond ⟨.ok, p⟩) := by
  obtain ⟨hwf, hresult⟩ := h
  rw [step_of_encode hvalid hwf hport, exec_eq_finish, State.withPort_params, State.withPort_block, hresult]
  rfl

/-- A program of commands, each with its payload, all answered OK on the block the first one finds. -/
theorem run_of_answers {program : List (Instr × List Byte)} {s : State} (hvalid : s.params.valid = true)
    (h : ∀ c ∈ program, Answers s.params s.block c.1 c.2) (hport : s.port = assemble (program.map Prod.fst)) :
    run program.length s =
      { s with port := [], responses := s.responses ++ program.map fun c => ⟨.ok, c.2⟩ } := by
  induction program generalizing s with
  | nil =>
    have hport : s.port = [] := hport
    simp [run, ← hport]
  | cons c program ih =>
    obtain ⟨hc, hprogram⟩ := List.forall_mem_cons.1 h
    let next := (s.withPort (assemble (program.map Prod.fst))).respond ⟨.ok, c.2⟩
    have hstep : step s = .next next := step_of_answers hvalid hc hport
    have hrun := ih (s := next) hvalid hprogram rfl
    simpa [run, hstep, next, State.respond, State.withPort] using hrun

/-! ## The primitives on operands they accept -/

section

variable {P : Params} {b : Block} (hopen : b.closed = false)

include hopen

theorem descramble_answers {v : Bits} (seed : Word32) (hlen : v.length ≤ 65535) :
    Answers P b (.descramble seed (bitsBytes v))
      (u16Nat (descramble P v seed).length ++ bitsBytes (descramble P v seed)) := by
  refine ⟨vecFits_of_le (by simpa using hlen), ?_⟩
  simp [resultOf, descrambleCommand, hopen, withBits, countedVec, u16Nat]

theorem deinterleave_answers {v : Bits} {k : Word16} (a : Word16) (hlen : v.length = k.toNat) (hk : k.toNat ≠ 0)
    (hgcd : Nat.gcd a.toNat k.toNat = 1) :
    Answers P b (.deinterleave k a (bitsBytes v))
      (u16Nat (deinterleave P v k.toNat a.toNat).length ++ bitsBytes (deinterleave P v k.toNat a.toNat)) := by
  refine ⟨by simpa [Instr.wf] using hlen, ?_⟩
  simp [resultOf, deinterleaveCommand, hopen, withBits, hk, hgcd]

theorem depuncture23_answers {v : Bits} (hmod : v.length % 3 = 0) (hmax : 8 * v.length / 3 ≤ 65535) :
    Answers P b (.depuncture23 (bitsBytes v))
      (u16Nat (depuncture23 P v).length ++ tritsBytes (depuncture23 P v)) := by
  refine ⟨vecFits_of_le (by rw [bitsBytes_length]; omega), ?_⟩
  have hmax : ¬ 8 * v.length / 3 > Config.vecMax := not_lt.2 hmax
  simp [resultOf, depuncture23Command, hopen, withBits, hmod, hmax, countedVec, u16Nat]

theorem viterbi_answers {d : Trits} (hmod : d.length % 4 = 0) (hlen : d.length ≤ 65535) :
    Answers P b (.viterbi (tritsBytes d)) (u16Nat (viterbi P d).length ++ bitsBytes (viterbi P d)) := by
  refine ⟨vecFits_of_le (by simpa using hlen), ?_⟩
  simp [resultOf, viterbiCommand, hopen, withTrits, hmod, countedVec, u16Nat]

theorem crc16Check_answers {v : Bits} {len : Word16} (hlen : v.length ≤ 65535) (hchecked : len.toNat ≤ v.length) :
    Answers P b (.crc16Check len (bitsBytes v)) [bitByte (crc16Check v len.toNat)] := by
  refine ⟨vecFits_of_le (by simpa using hlen), ?_⟩
  simp [resultOf, crc16CheckCommand, hopen, withBits, hchecked]

end

/-! ## The length of the decoder's output (R68) -/

theorem traceback_length (rows : List (List (Option Candidate))) (n : BitVec 4) (acc : Bits) :
    (traceback rows n acc).length = rows.length + acc.length := by
  induction rows generalizing n acc with
  | nil => simp [traceback]
  | cons row rows ih =>
    rw [traceback]
    split <;> rw [ih] <;> simp +arith

/-- The forward pass adds one survivor row for each four trits. -/
theorem viterbiForward_rows_length (P : Params) (received : Trits) :
    ∀ (d : Trits) (t : Nat) (m : List (Option Nat)) (rows : List (List (Option Candidate))),
      (viterbiForward P received t m rows d).2.length = d.length / 4 + rows.length
  | [], _, _, _ | [_], _, _, _ | [_, _], _, _, _ | [_, _, _], _, _, _ => by simp [viterbiForward]
  | a :: b :: c :: e :: rest, t, m, rows => by
    simp only [viterbiForward, viterbiForward_rows_length P received rest, List.length_cons]
    omega

theorem viterbi_length (P : Params) (d : Trits) : (viterbi P d).length = d.length / 4 := by
  simp [viterbi, traceback_length, viterbiForward_rows_length]

end Sys2Proof.Machine

namespace Sys2Proof

open Machine

/-- The commands of CHAIN with the payloads they are answered with. -/
def chainAnswers (P : Params) (seed : Word32) (k a len : Word16) (v : Bits) : List (Instr × List Byte) :=
  let o1 := descramble P v seed
  let o2 := deinterleave P o1 k.toNat a.toNat
  let o3 := depuncture23 P o2
  let o4 := viterbi P o3
  [(.descramble seed (bitsBytes v), u16Nat o1.length ++ bitsBytes o1),
   (.deinterleave k a (bitsBytes o1), u16Nat o2.length ++ bitsBytes o2),
   (.depuncture23 (bitsBytes o2), u16Nat o3.length ++ tritsBytes o3),
   (.viterbi (tritsBytes o3), u16Nat o4.length ++ bitsBytes o4),
   (.crc16Check len (bitsBytes o4), [bitByte (crc16Check o4 len.toNat)])]

theorem chainAnswers_answers {P : Params} {b : Block} {k a len : Word16} {v : Bits} (hopen : b.closed = false)
    (seed : Word32) (hlen : v.length = k.toNat) (hk : k.toNat ≠ 0) (hgcd : Nat.gcd a.toNat k.toNat = 1)
    (hmod : k.toNat % 3 = 0) (hmax : 8 * k.toNat / 3 ≤ 65535) (hchecked : len.toNat ≤ 2 * (k.toNat / 3)) :
    ∀ c ∈ chainAnswers P seed k a len v, Answers P b c.1 c.2 := by
  have hd3 : ∀ d : Bits, (depuncture23 P (deinterleave P d k.toNat a.toNat)).length = 8 * (k.toNat / 3) := by
    simp [depuncture23_length]
  have hd4 : ∀ d : Bits,
      (viterbi P (depuncture23 P (deinterleave P d k.toNat a.toNat))).length = 2 * (k.toNat / 3) := by
    intro d; rw [viterbi_length, hd3]; omega
  simp only [chainAnswers, List.forall_mem_cons]
  refine ⟨descramble_answers hopen seed (by omega), deinterleave_answers hopen a (by simpa using hlen) hk hgcd,
    depuncture23_answers hopen (by simpa using hmod) (by simpa using hmax),
    viterbi_answers hopen (by rw [hd3]; omega) (by rw [hd3]; omega),
    crc16Check_answers hopen (by rw [hd4]; omega) (by rw [hd4]; exact hchecked), nofun⟩

/-- Settles O60: CHAIN is a program whose commands all answer OK, each with the vector the next one takes. -/
theorem chainFeedsResponses : Obligations.ChainFeedsResponses := by
  intro s seed k a len v hopen hlen hk hgcd hmod hmax hchecked hport hvalid
  exact ⟨_, _, _, _, rfl,
    run_of_answers hvalid (chainAnswers_answers hopen seed hlen hk hgcd hmod hmax hchecked) hport⟩

end Sys2Proof
end

section
/-! How `exec` ends, as an equation for each end of a command (spec/00_scope.md R10, spec/60_exceptions.md R97 to R99), and
the commands EOS and TDMA_INC (spec/40_sync.md R57 to R59). -/

open Sys2Proof.Spec

namespace Sys2Proof.Machine

/-! ## The ends of a command -/

theorem exec_of_ok {i : Instr} {s : State} {b : Block} {p : List Byte} (h : resultOf s.params i s.block = .ok (b, p)) :
    exec i s = .next { s with block := b, responses := s.responses ++ [⟨.ok, p⟩] } := by
  rw [exec_eq_finish, h]
  rfl

theorem exec_of_error {i : Instr} {s : State} {c : Status} (h : resultOf s.params i s.block = .error c) :
    exec i s = .next { s with responses := s.responses ++ [⟨c, []⟩] } := by
  rw [exec_eq_finish, h]
  rfl

/-- CLOSED is the first check of every command but RD_STATE and RESET (R22, R97). -/
theorem exec_of_closed {i : Instr} {s : State} (hclosed : s.block.closed = true) (hi : ¬ acceptedWhenClosed i) :
    exec i s = .next { s with responses := s.responses ++ [⟨.closed, []⟩] } :=
  exec_of_error (resultOf_closed hclosed hi)

/-! ## The TDMA increment (R57) -/

theorem tdmaInc_of_tn_lt {tn : Nat} (h : tn < 4) (fn mn : Nat) : tdmaInc ⟨tn, fn, mn⟩ = ⟨tn + 1, fn, mn⟩ :=
  if_pos h

theorem tdmaInc_of_fn_lt {fn : Nat} (h : fn < 18) (mn : Nat) : tdmaInc ⟨4, fn, mn⟩ = ⟨1, fn + 1, mn⟩ :=
  if_pos h

theorem tdmaInc_of_mn_lt {mn : Nat} (h : mn < 60) : tdmaInc ⟨4, 18, mn⟩ = ⟨1, 1, mn + 1⟩ :=
  if_pos h

theorem tdmaInc_last : tdmaInc ⟨4, 18, 60⟩ = ⟨1, 1, 1⟩ := rfl

theorem timeInRange_iff {tn fn mn : Nat} :
    timeInRange tn fn mn = true ↔ (1 ≤ tn ∧ tn ≤ 4) ∧ (1 ≤ fn ∧ fn ≤ 18) ∧ 1 ≤ mn ∧ mn ≤ 60 := by
  simp [timeInRange, and_assoc]

theorem timeIndex_lt {t : Time} (h : timeInRange t.tn t.fn t.mn = true) : timeIndex t < 4320 := by
  rw [timeInRange_iff] at h
  unfold timeIndex
  omega

/-- In range the index determines the three fields: they are its digits in the mixed base 4, 18, 60. -/
theorem eq_of_timeIndex_eq {t u : Time} (ht : timeInRange t.tn t.fn t.mn = true)
    (hu : timeInRange u.tn u.fn u.mn = true) (h : timeIndex t = timeIndex u) : t = u := by
  obtain ⟨tn, fn, mn⟩ := t
  obtain ⟨tn', fn', mn'⟩ := u
  rw [timeInRange_iff] at ht hu
  simp only [timeIndex] at ht hu h
  simp only [Time.mk.injEq]
  omega

/-- Each carry of the increment, from tn to fn and from fn to mn, adds 1 to the index, and the last wraps it to 0. -/
theorem timeIndex_tdmaInc {t : Time} (h : timeInRange t.tn t.fn t.mn = true) :
    timeIndex (tdmaInc t) = (timeIndex t + 1) % 4320 := by
  obtain ⟨tn, fn, mn⟩ := t
  rw [timeInRange_iff] at h
  simp only at h
  by_cases htn : tn < 4
  · rw [tdmaInc_of_tn_lt htn]
    simp only [timeIndex]
    omega
  obtain rfl : tn = 4 := by omega
  by_cases hfn : fn < 18
  · rw [tdmaInc_of_fn_lt hfn]
    simp only [timeIndex]
    omega
  obtain rfl : fn = 18 := by omega
  by_cases hmn : mn < 60
  · rw [tdmaInc_of_mn_lt hmn]
    simp only [timeIndex]
    omega
  obtain rfl : mn = 60 := by omega
  decide

/-- After any number of increments TIME is in range and its index has advanced by that number. -/
theorem iterate_tdmaInc {t : Time} (h : timeInRange t.tn t.fn t.mn = true) (n : Nat) :
    timeInRange (tdmaInc^[n] t).tn (tdmaInc^[n] t).fn (tdmaInc^[n] t).mn = true ∧
      timeIndex (tdmaInc^[n] t) = (timeIndex t + n) % 4320 := by
  induction n with
  | zero => exact ⟨h, (Nat.mod_eq_of_lt (timeIndex_lt h)).symm⟩
  | succ n ih =>
    obtain ⟨hrange, hindex⟩ := ih
    rw [Function.iterate_succ_apply']
    refine ⟨tdmaInc_inRange hrange, ?_⟩
    rw [timeIndex_tdmaInc hrange, hindex]
    omega

end Sys2Proof.Machine

namespace Sys2Proof

open Machine

/-- Settles O32: 4320 increments bring the index back, and in range it determines TIME. -/
theorem tdmaIncrementIsCyclic : Obligations.TdmaIncrementIsCyclic := by
  intro t ht
  refine ⟨timeIndex_lt ht, timeIndex_tdmaInc ht, ?_⟩
  obtain ⟨hrange, hindex⟩ := iterate_tdmaInc ht 4320
  refine eq_of_timeIndex_eq hrange ht ?_
  rw [hindex, Nat.add_mod_right, Nat.mod_eq_of_lt (timeIndex_lt ht)]

/-- Settles O15: one clause for each carry. -/
theorem tdmaIncrementWraps : Obligations.TdmaIncrementWraps :=
  ⟨fun _ fn mn h => tdmaInc_of_tn_lt h fn mn, fun _ mn h => tdmaInc_of_fn_lt h mn, fun _ h => tdmaInc_of_mn_lt h,
    tdmaInc_last, tdmaInc_of_mn_lt (by decide)⟩

/-- Settles O14: the command is the increment of TIME behind the check of CLOSED. -/
theorem tdmaIncCommand : Obligations.TdmaIncCommand :=
  ⟨tdmaInc_last, tdmaInc_of_mn_lt (by decide), fun _ =>
    ⟨rfl, fun hclosed => exec_of_closed hclosed id, fun hopen => exec_of_ok (unlessClosed_open hopen _)⟩⟩

/-- Settles O13: EOS empties BUF and sets CLOSED behind the check of CLOSED, the check that then stops every command but
RD_STATE and RESET. -/
theorem eosCommand : Obligations.EosCommand :=
  fun _ => ⟨rfl, fun hclosed _ hi => exec_of_closed hclosed hi, fun hopen => exec_of_ok (unlessClosed_open hopen _)⟩

end Sys2Proof
end

section
/-! The training-sequence detector (spec/40_sync.md R47 to R50, spec/00_scope.md R11): scores as counts of differing places,
the boundary test, the classifier and the command CLASSIFY. -/

open Sys2Proof.Spec

namespace Sys2Proof.Machine

/-! ## Scores (R11) -/

/-- The places where a buffer differs from a pattern that lies at an offset. -/
def differences (buf pat : Bits) (off : Nat) : List Nat :=
  (List.range pat.length).filter fun i => buf.getD (off + i) false != pat.getD i false

/-- Zipping a pattern with the buffer behind its offset pairs up place by place. -/
theorem drop_zip_eq_map_range {buf pat : Bits} {off : Nat} (hfit : off + pat.length ≤ buf.length) :
    (buf.drop off).zip pat = (List.range pat.length).map fun i => (buf.getD (off + i) false, pat.getD i false) := by
  refine List.ext_getElem ?_ fun i hi _ => ?_
  · simp
    omega
  · have hpat : i < pat.length := by simp at hi; omega
    have hbuf : off + i < buf.length := by omega
    simp [hpat, hbuf]

/-- A pattern inside the buffer is scored by the number of places where the two differ. -/
theorem score_eq_length_differences {buf pat : Bits} {off : Nat} (hfit : off + pat.length ≤ buf.length) :
    score buf pat off = (differences buf pat off).length := by
  rw [score, drop_zip_eq_map_range hfit, List.countP_map, List.countP_eq_length_filter]
  rfl

theorem boundary_iff {P : Params} {buf : Bits} :
    boundary P buf = true ↔ score buf P.tsBegin 0 = 0 ∧ score buf P.tsEnd 500 < 2 := by
  simp [boundary, Config.offBegin, Config.offEnd, Config.beginMax, Config.endLimit]

/-- On a full buffer every training sequence that fits is scored whole (R7). -/
theorem score_of_patternsFit {P : Params} {buf : Bits} (hfit : P.patternsFit = true) (hfull : buf.length = 510)
    {q : Bits × Nat} (hq : q ∈ P.patterns) : score buf q.1 q.2 = (differences buf q.1 q.2).length := by
  obtain ⟨-, -, hend⟩ := patternFits_iff.1 (Params.patternsFit_iff.1 hfit q hq)
  exact score_eq_length_differences (hfull.symm ▸ hend)

/-! ## The classifier (R48) -/

/-- The type by the three scores alone, without the lowest of them: INVALID where all are above 5, else the first type of
the priority order that no other beats. -/
theorem burstTypeByScore_eq (x y z : Nat) :
    burstTypeByScore x y z =
      if 5 < x ∧ 5 < y ∧ 5 < z then none
      else if x ≤ y ∧ x ≤ z then some .sb
      else if y ≤ z then some .ndb
      else some .ndbSf := by
  have hinvalid : min x (min y z) > 5 ↔ 5 < x ∧ 5 < y ∧ 5 < z := by omega
  have hsb : x = min x (min y z) ↔ x ≤ y ∧ x ≤ z := by omega
  have hndb (h : ¬ (x ≤ y ∧ x ≤ z)) : y = min x (min y z) ↔ y ≤ z := by omega
  exact ite_congr (propext hinvalid) (fun _ => rfl) fun _ =>
    ite_congr (propext hsb) (fun _ => rfl) fun h => if_congr (hndb h) rfl rfl

variable {x y z : Nat}

theorem burstTypeByScore_eq_some_sb_iff :
    burstTypeByScore x y z = some .sb ↔ x ≤ 5 ∧ x ≤ y ∧ x ≤ z := by
  rw [burstTypeByScore_eq]
  split_ifs <;> simp <;> omega

theorem burstTypeByScore_eq_some_ndb_iff :
    burstTypeByScore x y z = some .ndb ↔ y ≤ 5 ∧ y < x ∧ y ≤ z := by
  rw [burstTypeByScore_eq]
  split_ifs <;> simp <;> omega

theorem burstTypeByScore_eq_some_ndbSf_iff :
    burstTypeByScore x y z = some .ndbSf ↔ z ≤ 5 ∧ z < x ∧ z < y := by
  rw [burstTypeByScore_eq]
  split_ifs <;> simp <;> omega

theorem burstTypeByScore_eq_none_iff :
    burstTypeByScore x y z = none ↔ 5 < x ∧ 5 < y ∧ 5 < z := by
  rw [burstTypeByScore_eq]
  split_ifs <;> simp <;> omega

/-! ## Element checks -/

theorem withBits_of_bad {d : List Byte} (hbad : ∃ b ∈ d, 1 < b.toNat) (k : Bits → Result) :
    withBits d k = .error .badElement := by
  simp [withBits, (bitsOf_eq_none_iff d).2 hbad]

@[simp] theorem withBits_bitsBytes (v : Bits) (k : Bits → Result) : withBits (bitsBytes v) k = k v := by
  simp [withBits]

end Sys2Proof.Machine

namespace Sys2Proof

open Machine

/-- Settles O41: a fitting pattern lies inside the full buffer, so its score counts the places where the two differ. -/
theorem boundaryTest : Obligations.BoundaryTest := by
  intro P buf _ hfit hfull
  have hscore : ∀ q ∈ P.patterns, score buf q.1 q.2 = (differences buf q.1 q.2).length :=
    fun q hq => score_of_patternsFit hfit hfull hq
  refine ⟨hscore, ?_⟩
  have hbegin := hscore (P.tsBegin, 0) (by simp [Params.patterns, Config.offBegin])
  have hend := hscore (P.tsEnd, 500) (by simp [Params.patterns, Config.offEnd])
  rw [boundary_iff, hbegin, hend]
  rfl

/-- Settles O42: `classifyBurst` is `burstTypeByScore` of the three scores, read back for each of its four answers. -/
theorem classifierPriority : Obligations.ClassifierPriority :=
  fun _ _ => ⟨rfl, rfl, rfl, burstTypeByScore_eq_some_sb_iff, burstTypeByScore_eq_some_ndb_iff,
    burstTypeByScore_eq_some_ndbSf_iff, burstTypeByScore_eq_none_iff⟩

/-- Settles O22: behind the checks of CLOSED and of the elements CLASSIFY answers the classification and leaves the
block. -/
theorem classifyCommand : Obligations.ClassifyCommand := by
  intro d s hlen
  refine ⟨rfl, by simp [encode, Instr.operandBytes, hlen], fun hclosed => exec_of_closed hclosed id, ?_, ?_⟩
  · intro hopen hbad
    exact exec_of_error ((unlessClosed_open hopen _).trans (withBits_of_bad hbad _))
  · rintro hopen v rfl
    refine ⟨classCode (classifyBurst s.params v).type, ?_,
      exec_of_ok ((unlessClosed_open hopen _).trans (withBits_bitsBytes v _))⟩
    rcases (classifyBurst s.params v).type with _ | _ | _ | _ <;> rfl

end Sys2Proof
end

section
/-! RX_SYMBOL branch by branch (spec/40_sync.md R51 to R54), and the processing of a full buffer (R56) with an SB's block
order (spec/42_splitter.md R76, R80, R81). -/

open Sys2Proof.Spec

namespace Sys2Proof.Machine

/-! ## The branches of R52, one equation each -/

section

variable {P : Params} {x : Bool} {b : Block}

theorem receiveSymbol_of_short (hshort : (b.counted P x).buf.length < 510) :
    receiveSymbol P x b = (b.counted P x, false) := by
  rw [receiveSymbol_eq_counted]
  exact if_pos hshort

variable (hfull : (b.counted P x).buf.length = 510)

include hfull

theorem receiveSymbol_of_boundary (hboundary : boundary P (b.counted P x).buf = true) :
    receiveSymbol P x b = (confirmBurst P (b.counted P x), true) := by
  simp [receiveSymbol_eq_counted, hfull, hboundary]

theorem receiveSymbol_of_coast (hboundary : boundary P (b.counted P x).buf = false)
    (hcoast : (b.counted P x).sync = true ∧ (b.counted P x).cnt % 510 = 0) :
    receiveSymbol P x b = (coastBurst P (b.counted P x), false) := by
  simp [receiveSymbol_eq_counted, hfull, hboundary, hcoast]

theorem receiveSymbol_of_slide (hboundary : boundary P (b.counted P x).buf = false)
    (hslide : ¬ ((b.counted P x).sync = true ∧ (b.counted P x).cnt % 510 = 0)) :
    receiveSymbol P x b = (slideBuf P (b.counted P x), false) := by
  have htest : ((b.counted P x).sync && (b.counted P x).cnt % 510 == 0) = false := by simpa using hslide
  simp [receiveSymbol_eq_counted, hfull, hboundary, htest]

end

/-! ## What each branch leaves -/

theorem Block.counted_eq (P : Params) (x : Bool) (b : Block) :
    b.counted P x = { b with
      buf := b.buf ++ [x]
      cnt := if P.countdown = .perSymbol ∧ b.sync = true ∧ b.cnt > 0 then b.cnt - 1 else b.cnt } := by
  rw [Block.counted, countSymbol_cnt]

theorem confirmBurst_eq (P : Params) (b : Block) :
    confirmBurst P b =
      { processBurst P b.buf { b with sync := true, cnt := 25500, time := tdmaInc b.time } with buf := [] } := rfl

/-- What a coast leaves before its loss check: TIME advances where P_COAST_TIME says so, and the burst is processed
(R53). -/
def coasted (P : Params) (b : Block) : Block :=
  { processBurst P b.buf { b with time := if P.coastTime then tdmaInc b.time else b.time } with buf := [] }

/-- The processing of the burst does not touch CNT, so the loss check reads the CNT the coast began with (R52). -/
theorem coastBurst_eq (P : Params) (b : Block) :
    coastBurst P b =
      if P.countdown = .perSymbol ∧ b.cnt = 0 then
        { coasted P b with sync := false, outq := (coasted P b).outq ++ [.evt .syncLost (coasted P b).time] }
      else coasted P b := by
  have hcoasted : coastBurst P b = checkCoastLoss P (coasted P b) := by
    unfold coastBurst coasted
    split <;> rfl
  have hcnt : (coasted P b).cnt = b.cnt := (processBurst_delivers P b.buf _).cnt
  rw [hcoasted, checkCoastLoss_eq, ← hcnt]

/-- On a full buffer discarding the oldest bit is dropping the head, and CNT goes from 1 to 0 where it ends (R52). -/
theorem slideBuf_of_full (P : Params) {b : Block} (hfull : b.buf.length = 510) :
    slideBuf P b =
      if P.countdown = .literal ∧ b.cnt > 0 then
        if b.cnt = 1 ∧ b.sync = true then
          { b with buf := b.buf.drop 1, cnt := 0, sync := false, outq := b.outq ++ [.evt .syncLost b.time] }
        else { b with buf := b.buf.drop 1, cnt := b.cnt - 1 }
      else { b with buf := b.buf.drop 1 } := by
  have hslice : slice b.buf 1 510 = b.buf.drop 1 := List.take_of_length_le (by simp [hfull])
  rw [slideBuf_eq, hslice]
  split
  · split
    next hone => rw [hone.1]
    next => rfl
  · rfl

/-! ## RX_SYMBOL as a command -/

theorem exec_rxSymbol {s : State} (hopen : s.block.closed = false) (x : Bool) :
    exec (.rxSymbol (bitByte x)) s = .next { s with
      block := (receiveSymbol s.params x s.block).1
      responses := s.responses ++ [⟨.ok, [bitByte (receiveSymbol s.params x s.block).2]⟩] } := by
  refine exec_of_ok ((unlessClosed_open hopen _).trans ?_)
  rw [bitOf_bitByte]

theorem exec_rxSymbol_of_eq {s : State} {x found : Bool} {b : Block} (hopen : s.block.closed = false)
    (h : receiveSymbol s.params x s.block = (b, found)) :
    exec (.rxSymbol (bitByte x)) s = .next { s with
      block := b
      responses := s.responses ++ [⟨.ok, [bitByte found]⟩] } := by
  rw [exec_rxSymbol hopen, h]

theorem exec_rxSymbol_of_bad {s : State} {sym : Byte} (hopen : s.block.closed = false) (hbad : 1 < sym.toNat) :
    exec (.rxSymbol sym) s = .next { s with responses := s.responses ++ [⟨.badElement, []⟩] } := by
  refine exec_of_error ((unlessClosed_open hopen _).trans ?_)
  rw [(bitOf_eq_none_iff sym).2 hbad]

/-! ## The processing of a burst (R56, R80) -/

theorem processBurst_of_invalid {P : Params} {v : Bits} (b : Block) (h : (classifyBurst P v).type = none) :
    processBurst P v b = { b with stolen2 := false, outq := b.outq ++ [.evt .burstInvalid b.time] } := by
  rw [processBurst, h]
  rfl

theorem processBurst_of_type {P : Params} {v : Bits} {ty : BurstType} (b : Block)
    (h : (classifyBurst P v).type = some ty) :
    processBurst P v b = { splitBlocks P ty v b with stolen2 := false } := by
  rw [processBurst, h]
  rfl

theorem decodeAndDeliver_eq_afterBlock (P : Params) (ch : Channel) (x : Bits) (seed : Word32) (c : CodeClass)
    (b : Block) : decodeAndDeliver P ch x seed c b = afterBlock P ch (decodeBlock P x seed c) b := rfl

/-- The AACH is the first 14 of the BBK bits, descrambled under the CELL.SCODE of the moment (R70, R78). -/
theorem deliverAach_eq_deliver (P : Params) (bbk : Bits) (b : Block) :
    deliverAach P bbk b = deliver P .aach ((descramble P bbk b.cell.scode).take 14) b := rfl

/-- R76, R80 and R81: each block of an SB is descrambled under the CELL.SCODE that the block before it has left. -/
theorem splitSb_eq (P : Params) (v : Bits) (b : Block) :
    splitSb P v b =
      let b1 := afterBlock P .bsch (decodeBlock P (extract P.layout.sbBkn1 v) 0x00000003 bschClass) b
      let b2 := deliver P .aach ((descramble P (extract P.layout.sbBbk v) b1.cell.scode).take 14) b1
      afterBlock P (SbBkn2Channel.channel P.sbBkn2Ch)
        (decodeBlock P (extract P.layout.sbBkn2 v) b2.cell.scode (halfClass P)) b2 := by
  simp only [splitSb, decodeAndDeliver_eq_afterBlock, deliverAach_eq_deliver, Config.syncSeed]

end Sys2Proof.Machine

namespace Sys2Proof

open Machine

/-- Settles O12: the branch that the length of BUF, the boundary test, SYNC and CNT select, each with the block it
leaves. -/
theorem rxSymbolCommand : Obligations.RxSymbolCommand := by
  intro sym s
  refine ⟨rfl, fun hclosed => exec_of_closed hclosed id, exec_rxSymbol_of_bad, ?_⟩
  rintro hopen x rfl b P cnt buf
  have hcounted : b.counted P x = { b with buf := buf, cnt := cnt } := Block.counted_eq P x b
  refine ⟨fun hshort => ?_, fun hfull hboundary => ?_, fun hfull hboundary hsync hcnt => ?_,
    fun hfull hboundary hslide => ?_⟩
  · have hreceive : receiveSymbol P x b = (b.counted P x, false) := receiveSymbol_of_short hshort
    rw [hcounted] at hreceive
    exact exec_rxSymbol_of_eq hopen hreceive
  · have hreceive : receiveSymbol P x b = (confirmBurst P (b.counted P x), true) :=
      receiveSymbol_of_boundary hfull hboundary
    rw [hcounted, confirmBurst_eq] at hreceive
    exact exec_rxSymbol_of_eq hopen hreceive
  · have hreceive : receiveSymbol P x b = (coastBurst P (b.counted P x), false) :=
      receiveSymbol_of_coast hfull hboundary (hcounted ▸ ⟨hsync, hcnt⟩)
    rw [hcounted, coastBurst_eq] at hreceive
    exact ⟨_, rfl, exec_rxSymbol_of_eq hopen hreceive⟩
  · have hreceive : receiveSymbol P x b = (slideBuf P (b.counted P x), false) :=
      receiveSymbol_of_slide hfull hboundary (hcounted ▸ hslide)
    rw [hcounted, slideBuf_of_full P hfull] at hreceive
    exact exec_rxSymbol_of_eq hopen hreceive

/-- Settles O44: by the classification, and for an SB by what each of its three blocks leaves the next. -/
theorem burstProcessing : Obligations.BurstProcessing := by
  intro P v b
  exact ⟨processBurst_of_invalid b, processBurst_of_type b, processBurst_of_type b, processBurst_of_type b,
    splitSb_eq P v b⟩

end Sys2Proof
end

section
/-! R55 (spec/40_sync.md), item 2: under the literal countdown nothing but RESET ends synchronization. A relation between two
blocks, kept by everything a burst can do (spec/42_splitter.md R79 to R85, spec/43_host.md R95), then by the reception of a
symbol and by every command. -/

open Sys2Proof.Spec

namespace Sys2Proof.Machine

/-- From `b` to `b'` synchronization is not lost: SYNC stays set where it was, and OUTQ has gained no SYNC_LOST. -/
structure KeepsSync (b b' : Block) : Prop where
  sync : b.sync = true → b'.sync = true
  outq : ∃ records, b'.outq = b.outq ++ records ∧ ∀ time, Record.evt .syncLost time ∉ records

namespace KeepsSync

/-- Where OUTQ is not written only SYNC counts. -/
theorem of_outq_eq {b b' : Block} (hsync : b.sync = true → b'.sync = true) (houtq : b'.outq = b.outq) :
    KeepsSync b b' := ⟨hsync, [], by simp [houtq], by simp⟩

theorem refl (b : Block) : KeepsSync b b := of_outq_eq id rfl

theorem trans {a b c : Block} (h : KeepsSync a b) (k : KeepsSync b c) : KeepsSync a c := by
  obtain ⟨hsync, xs, hxs, hxs'⟩ := h
  obtain ⟨ksync, ys, hys, hys'⟩ := k
  refine ⟨ksync ∘ hsync, xs ++ ys, by rw [hys, hxs, List.append_assoc], fun time hmem => ?_⟩
  exact (List.mem_append.1 hmem).elim (hxs' time) (hys' time)

end KeepsSync

/-! ## Bursts -/

theorem emit_keepsSync (b : Block) {r : Record} (h : ∀ time, Record.evt .syncLost time ≠ r) : KeepsSync b (b.emit r) :=
  ⟨id, [r], rfl, fun time hmem => h time (List.mem_singleton.1 hmem)⟩

theorem event_keepsSync (b : Block) {e : Event} (h : Event.syncLost ≠ e) : KeepsSync b (b.event e) :=
  emit_keepsSync b fun _ heq => h (Record.evt.inj heq).1

theorem apply_keepsSync (b : Block) (w : Write) : KeepsSync b (w.apply b) := .of_outq_eq (by simp) (by simp)

theorem runEnv_keepsSync (P : Params) (r : Record) (b : Block) : KeepsSync b (runEnv P r b) := by
  unfold runEnv
  generalize envWrites P r b = ws
  induction ws generalizing b with
  | nil => exact .refl b
  | cons w ws ih =>
    refine KeepsSync.trans ?_ (ih (applyEnvWrite b w))
    unfold applyEnvWrite
    split
    · exact apply_keepsSync b w
    · exact event_keepsSync b nofun

theorem deliver_keepsSync (P : Params) (ch : Channel) (bits : Bits) (b : Block) : KeepsSync b (deliver P ch bits b) :=
  (emit_keepsSync b (r := .dlv ch b.time bits) nofun).trans (runEnv_keepsSync P _ _)

theorem decodeAndDeliver_keepsSync (P : Params) (ch : Channel) (x : Bits) (seed : Word32) (c : CodeClass) (b : Block) :
    KeepsSync b (decodeAndDeliver P ch x seed c b) := by
  rw [decodeAndDeliver_eq_afterBlock, afterBlock]
  split
  · exact deliver_keepsSync P ch _ b
  · exact .refl b

theorem unstolenHalf_keepsSync (P : Params) (x : Bits) (b : Block) : KeepsSync b (unstolenHalf P x b) := by
  unfold unstolenHalf
  split
  · exact event_keepsSync b nofun
  · exact deliver_keepsSync P _ _ b

theorem splitSb_keepsSync (P : Params) (v : Bits) (b : Block) : KeepsSync b (splitSb P v b) :=
  ((decodeAndDeliver_keepsSync P .bsch _ _ _ b).trans (deliver_keepsSync P .aach _ _)).trans
    (decodeAndDeliver_keepsSync P _ _ _ _ _)

theorem splitNdb_keepsSync (P : Params) (v : Bits) (b : Block) : KeepsSync b (splitNdb P v b) := by
  have haach : KeepsSync b (deliverAach P (extract P.layout.ndBbk v) b) := deliver_keepsSync P .aach _ b
  refine haach.trans ?_
  unfold splitNdb
  dsimp only
  split
  · exact emit_keepsSync _ nofun
  · exact decodeAndDeliver_keepsSync P _ _ _ _ _

theorem splitSf_keepsSync (P : Params) (v : Bits) (b : Block) : KeepsSync b (splitSf P v b) := by
  have haach : KeepsSync b (deliverAach P (extract P.layout.ndBbk v) b) := deliver_keepsSync P .aach _ b
  have hhalf (c : Block) := decodeAndDeliver_keepsSync P (halfSlotChannel c) (extract P.layout.ndBkn1 v) c.cell.scode
    (halfClass P) c
  refine (haach.trans (hhalf _)).trans ?_
  unfold splitSf
  dsimp only
  split
  · exact unstolenHalf_keepsSync P _ _
  · exact decodeAndDeliver_keepsSync P _ _ _ _ _

theorem splitBurst_keepsSync (P : Params) (ty : BurstType) (v : Bits) (b : Block) :
    KeepsSync b (splitBurst P ty v b) :=
  have hblocks : KeepsSync b (splitBlocks P ty v b) := by
    cases ty with
    | sb => exact splitSb_keepsSync P v b
    | ndb => exact splitNdb_keepsSync P v b
    | ndbSf => exact splitSf_keepsSync P v b
  hblocks.trans (.of_outq_eq id rfl)

theorem processBurst_keepsSync (P : Params) (v : Bits) (b : Block) : KeepsSync b (processBurst P v b) := by
  unfold processBurst
  split
  · exact (event_keepsSync b (e := .burstInvalid) nofun).trans (.of_outq_eq id rfl)
  · exact splitBurst_keepsSync P _ v b

/-! ## The reception of a symbol -/

theorem confirmBurst_keepsSync (P : Params) (b : Block) : KeepsSync b (confirmBurst P b) := by
  have hstart : KeepsSync b { b with sync := true, cnt := 25500, time := tdmaInc b.time } :=
    .of_outq_eq (fun _ => rfl) rfl
  exact (hstart.trans (processBurst_keepsSync P b.buf _)).trans (.of_outq_eq id rfl)

/-- Under `literal` a coast has no loss check (R51). -/
theorem coastBurst_keepsSync {P : Params} (hP : P.countdown = .literal) (b : Block) :
    KeepsSync b (coastBurst P b) := by
  have hcoast : coastBurst P b = coasted P b := by simp [coastBurst_eq, hP]
  have hstart : KeepsSync b { b with time := if P.coastTime then tdmaInc b.time else b.time } := .of_outq_eq id rfl
  rw [hcoast]
  exact (hstart.trans (processBurst_keepsSync P b.buf _)).trans (.of_outq_eq id rfl)

/-- Under `literal` CNT stands at its initial value while synchronized, so a synchronized block coasts and never slides
(R55). -/
theorem receiveSymbol_keepsSync {P : Params} (hP : P.countdown = .literal) {b : Block} (hopen : b.closed = false)
    (hlen : b.buf.length < 510) (hsync : b.SyncOk P) (x : Bool) : KeepsSync b (receiveSymbol P x b).1 := by
  have hok := Block.counted_countedOk hopen hsync x
  have hlen' : (b.counted P x).buf.length = b.buf.length + 1 := List.length_append
  have hcounted : KeepsSync b (b.counted P x) := .of_outq_eq id rfl
  refine receiveSymbol_induction (fun _ => hcounted) (hcounted.trans (confirmBurst_keepsSync P _))
    (fun _ _ => hcounted.trans (coastBurst_keepsSync hP _)) fun hfull hslide => hcounted.trans ?_
  have hlost := hok.sync_eq_false_of_slide (by omega) hslide
  rw [slideBuf_of_lost (hok.lost hlost)]
  exact .of_outq_eq id rfl

/-! ## Commands and steps -/

/-- Under `literal` CNT is 0 or its initial value (R55). -/
theorem Block.SyncOk.cnt_of_literal {P : Params} {b : Block} (hP : P.countdown = .literal) (h : b.SyncOk P) :
    b.cnt = 0 ∨ b.cnt = 25500 := by
  obtain ⟨hlost, hsynced⟩ := h
  cases hsync : b.sync with
  | false => exact .inl (hlost hsync)
  | true => exact .inr (show b.cnt = Config.resyncInit by simpa [hP] using hsynced hsync)

theorem resultOf_keepsSync {P : Params} (hP : P.countdown = .literal) {i : Instr} (hreset : i ≠ .reset)
    {b b' : Block} {p : List Byte} (hinv : b.Inv P) (h : resultOf P i b = .ok (b', p)) : KeepsSync b b' := by
  cases i with
  | rxSymbol =>
    obtain ⟨hopen, x, rfl⟩ := rxSymbolCommand_eq_ok h
    obtain ⟨⟨hlen, -⟩, -, -, hsync⟩ := hinv
    exact receiveSymbol_keepsSync hP hopen hlen hsync x
  | eos | tdmaInc =>
    obtain ⟨-, h⟩ := unlessClosed_eq_ok h
    cases h
    exact .of_outq_eq id rfl
  | split =>
    obtain ⟨-, t, v, rfl⟩ := splitCommand_eq_ok h
    exact splitBurst_keepsSync P t v b
  | rdState => cases h; exact .refl b
  | reset => exact absurd rfl hreset
  | wrCell | wrTime | wrUsage | wrStolen2 | wrFreq | wrLch =>
    obtain ⟨-, -, rfl⟩ := writeCommand_eq_ok h
    exact apply_keepsSync b _
  | descramble | deinterleave | depuncture23 | viterbi | rmDecode | crc16Check | classify =>
    obtain rfl : b' = b := (resultOf_primitive_eq_ok (by trivial) h).2
    exact .refl b'

/-- Every command but RESET keeps synchronization under `literal`, whether it ends with OK or with a fault. -/
theorem exec_keepsSync {i : Instr} {s t : State} (hP : s.params.countdown = .literal) (hinv : s.block.Inv s.params)
    (hreset : i ≠ .reset) (h : exec i s = .next t) : KeepsSync s.block t.block := by
  rcases exec_eq_next h with ⟨b, p, hr, rfl⟩ | ⟨c, -, rfl⟩
  · exact resultOf_keepsSync hP hreset hinv hr
  · exact .refl s.block

/-- RESET clears SYNC without an event: OUTQ keeps its records (R111). -/
theorem exec_reset_outq {s t : State} (h : exec .reset s = .next t) : t.block.outq = s.block.outq := by
  cases h
  rfl

end Sys2Proof.Machine

namespace Sys2Proof

open Machine

/-- Settles O56: the invariant gives CNT's two values, and each step is a reserved opcode, RESET, or a command that keeps
synchronization. -/
theorem literalNeverLosesSync : Obligations.LiteralNeverLosesSync := by
  rintro s t ⟨-, hinv⟩ hP hstep
  have ⟨_, _, _, hsyncOk⟩ := hinv
  refine ⟨hsyncOk.cnt_of_literal hP, ?_⟩
  rcases (step_eq_next hstep).2 with ⟨i, rest, hframe, hexec⟩ | ⟨op, rest, -, rfl⟩
  · by_cases hreset : i = .reset
    · subst hreset
      exact ⟨fun _ => .inr ⟨rest, hframe⟩, [], by simpa using exec_reset_outq hexec, by simp⟩
    · obtain ⟨hsync, houtq⟩ := exec_keepsSync (s := s.withPort rest) hP hinv hreset hexec
      exact ⟨fun h => .inl (hsync h), houtq⟩
  · exact ⟨fun h => .inl h, [], (List.append_nil _).symm, by simp⟩

end Sys2Proof
end

section
/-! The descrambler (spec/41_primitives.md R60, R61): the keystream as the feedback bits of the register's successive
states, what a state holds of the seed and of the keystream, and DESCRAMBLE as a command. -/

open Sys2Proof.Spec

namespace Sys2Proof.Machine

/-! ## Frames of the commands with a vector operand (R41) -/

@[simp] theorem u16Nat_length (n : Nat) : (u16Nat n).length = 2 := rfl

@[simp] theorem u16Nat_toNat (w : Word16) : u16Nat w.toNat = u16Bytes w := by simp [u16Nat]

@[simp] theorem u16Bytes_length (w : Word16) : (u16Bytes w).length = 2 := rfl

@[simp] theorem u32Bytes_length (w : Word32) : (u32Bytes w).length = 4 := rfl

theorem countedVec_eq (d : List Byte) : countedVec d = u16Nat d.length ++ d := rfl

@[simp] theorem countedVec_length (d : List Byte) : (countedVec d).length = 2 + d.length := by simp [countedVec_eq]

theorem countedVec_bitsBytes (v : Bits) : countedVec (bitsBytes v) = u16Nat v.length ++ bitsBytes v := by
  rw [countedVec_eq, bitsBytes_length]

theorem countedVec_tritsBytes (v : Trits) : countedVec (tritsBytes v) = u16Nat v.length ++ tritsBytes v := by
  rw [countedVec_eq, tritsBytes_length]

/-! ## The keystream (R60) -/

/-- One step of the register, the feedback bit shifted in at the top. -/
def lfsrNext (taps : List Nat) (r : Word32) : Word32 := lfsrShift (lfsrFeedback taps r) r

/-- Keystream bit `k` is the feedback bit of the register after `k` steps. -/
theorem keystream_getElem? {taps : List Nat} {n k : Nat} (seed : Word32) (hk : k < n) :
    (keystream taps seed n)[k]? = some (lfsrFeedback taps ((lfsrNext taps)^[k] seed)) := by
  induction n generalizing seed k with
  | zero => omega
  | succ n ih =>
    cases k with
    | zero => rfl
    | succ k => exact ih (lfsrNext taps seed) (by omega)

/-- A step moves every register bit down by one, and the feedback bit into bit 31. -/
theorem lfsrShift_getLsbD (fb : Bool) (r : Word32) {i : Nat} (hi : i < 32) :
    (lfsrShift fb r).getLsbD i = if i = 31 then fb else r.getLsbD (i + 1) := by
  by_cases htop : i = 31
  · subst htop
    simp [lfsrShift]
  · simp [lfsrShift, htop, show i < 31 by omega, Nat.add_comm]

/-- Tap `y` of the register after `k` steps holds the keystream bit produced `y` steps earlier, or the seed bit that `k`
steps have moved there. -/
theorem lfsrNext_iterate_tap {taps : List Nat} {seed : Word32} {n k y : Nat} (hk : k < n) (hy : 1 ≤ y) (hy' : y ≤ 32) :
    ((lfsrNext taps)^[k] seed).getLsbD (32 - y) =
      if y ≤ k then (keystream taps seed n).getD (k - y) false else seed.getLsbD (32 - (y - k)) := by
  induction k generalizing y with
  | zero => simp [show ¬ y ≤ 0 by omega]
  | succ k ih =>
    rw [Function.iterate_succ_apply', lfsrNext, lfsrShift_getLsbD _ _ (by omega)]
    by_cases hone : y = 1
    · subst hone
      simp [keystream_getElem? seed (show k < n by omega)]
    · have hprev := ih (y := y - 1) (by omega) (by omega) (by omega)
      rw [show 32 - (y - 1) = 32 - y + 1 by omega] at hprev
      rw [if_neg (by omega), hprev, show k - (y - 1) = k + 1 - y by omega,
        show y - 1 - k = y - (k + 1) by omega]
      simp only [show y - 1 ≤ k ↔ y ≤ k + 1 by omega]

/-! ## Descrambling (R61) -/

theorem descramble_getElem? (P : Params) (seed : Word32) {v : Bits} {k : Nat} (hk : k < v.length) :
    (descramble P v seed)[k]? = some (v.getD k false ^^ (keystream P.lfsrTaps seed v.length).getD k false) := by
  simp [descramble, hk]

theorem zipWith_xor_cancel {v w : Bits} (h : v.length = w.length) :
    List.zipWith xor (List.zipWith xor v w) w = v := by
  induction v generalizing w with
  | nil => rfl
  | cons x v ih =>
    cases w with
    | nil => cases h
    | cons y w => simp [ih (Nat.succ.inj h)]

/-- The keystream depends on the length alone, so a second pass takes away what the first added. -/
theorem descramble_descramble (P : Params) (v : Bits) (seed : Word32) :
    descramble P (descramble P v seed) seed = v := by
  rw [descramble, descramble_length]
  exact zipWith_xor_cancel (keystream_length ..).symm

theorem lfsrFeedback_zero (taps : List Nat) : lfsrFeedback taps 0 = false := by
  simp [lfsrFeedback]

/-- The all-zero register stays zero. -/
theorem keystream_zero (taps : List Nat) (n : Nat) : keystream taps 0 n = List.replicate n false := by
  induction n with
  | zero => rfl
  | succ n ih =>
    have hstay : lfsrShift false 0 = 0 := by decide
    rw [keystream, lfsrFeedback_zero, hstay, ih, List.replicate_succ]

theorem descramble_zero (P : Params) (v : Bits) : descramble P v 0 = v := by
  rw [descramble, keystream_zero]
  induction v with
  | nil => rfl
  | cons x v ih => simpa [List.replicate_succ] using ih

end Sys2Proof.Machine

namespace Sys2Proof

open Machine

/-- Settles O33: bit `k` is the feedback bit of the register after `k` steps, and its taps hold the earlier bits. -/
theorem keystreamIsTapRecurrence : Obligations.KeystreamIsTapRecurrence := by
  intro taps seed n k htaps hk
  rw [keystream_getElem? seed hk, lfsrFeedback]
  congr 1
  refine List.foldl_ext _ _ _ fun acc y hy => ?_
  rw [lfsrNext_iterate_tap hk (htaps y hy).1 (htaps y hy).2]

/-- Settles O16: the checks of the command, and `descramble` bit by bit. -/
theorem descrambleCommand : Obligations.DescrambleCommand := by
  intro seed d s
  refine ⟨congrArg (0x10 :: ·) (List.append_assoc ..).symm, by simp [encode, Instr.operandBytes]; omega,
    fun hclosed => exec_of_closed hclosed id,
    fun hopen hbad => exec_of_error ((unlessClosed_open hopen _).trans (withBits_of_bad hbad _)), ?_,
    fun v => ⟨descramble_descramble s.params v seed, descramble_zero s.params v⟩⟩
  rintro hopen v rfl
  refine ⟨descramble s.params v seed, descramble_length .., fun k hk => descramble_getElem? s.params seed hk,
    exec_of_ok ((unlessClosed_open hopen _).trans ((withBits_bitsBytes v _).trans ?_))⟩
  rw [countedVec_bitsBytes, descramble_length]

end Sys2Proof
end

section
/-! The block deinterleaver (spec/41_primitives.md R62 to R64): when the source indices permute, why the interleaver is
undone, and DEINTERLEAVE as a command. -/

open Sys2Proof.Spec

namespace Sys2Proof.Machine

/-! ## The source indices (R62) -/

theorem deintIndex_lt (P : Params) {k : Nat} (hk : 0 < k) (a i : Nat) : deintIndex P k a i < k := Nat.mod_lt _ hk

/-- Two outputs share a source exactly when `a` times their distance is a multiple of K. -/
theorem deintIndex_eq_iff (P : Params) (k a i j : Nat) :
    deintIndex P k a i = deintIndex P k a j ↔ a * i ≡ a * j [MOD k] := by
  have hsplit : ∀ i, P.deintOffset + a * (i + 1) = P.deintOffset + a + a * i := fun i => by ring
  rw [deintIndex, deintIndex, hsplit, hsplit]
  exact ⟨Nat.ModEq.add_left_cancel' _, Nat.ModEq.add_left _⟩

/-- For a pair that permutes, distinct outputs have distinct sources. -/
theorem deintIndex_injOn (P : Params) {k a : Nat} (hgcd : Nat.gcd a k = 1) :
    ∀ i < k, ∀ j < k, deintIndex P k a i = deintIndex P k a j → i = j := by
  intro i hi j hj h
  have hmod : i ≡ j [MOD k] :=
    Nat.ModEq.cancel_left_of_coprime (Nat.gcd_comm a k ▸ hgcd) ((deintIndex_eq_iff P k a i j).1 h)
  exact hmod.eq_of_lt_of_lt hi hj

/-- Where a common factor `g` is left, outputs 0 and K/g share a source. -/
theorem deintIndex_collision (P : Params) (k a : Nat) :
    deintIndex P k a (k / Nat.gcd a k) = deintIndex P k a 0 := by
  refine (deintIndex_eq_iff P k a _ 0).2 (Nat.modEq_zero_iff_dvd.2 ?_)
  obtain ⟨b, hb⟩ := Nat.gcd_dvd_left a k
  refine ⟨b, ?_⟩
  calc a * (k / Nat.gcd a k) = Nat.gcd a k * b * (k / Nat.gcd a k) := by rw [← hb]
    _ = Nat.gcd a k * (k / Nat.gcd a k) * b := by ring
    _ = k * b := by rw [Nat.mul_div_cancel' (Nat.gcd_dvd_right a k)]

/-- The source indices are without repetition exactly for the pairs that permute. -/
theorem nodup_deintIndex_iff (P : Params) {k : Nat} (hk : 0 < k) (a : Nat) :
    ((List.range k).map (deintIndex P k a)).Nodup ↔ Nat.gcd a k = 1 := by
  rw [List.nodup_map_iff_inj_on List.nodup_range]
  simp only [List.mem_range]
  refine ⟨fun hinj => ?_, fun hgcd i hi j hj => deintIndex_injOn P hgcd i hi j hj⟩
  by_contra hgcd
  have hg : 1 < Nat.gcd a k := by
    have := Nat.gcd_pos_of_pos_right a hk
    omega
  have hzero := hinj _ (Nat.div_lt_self hk hg) 0 hk (deintIndex_collision P k a)
  have hpos := Nat.div_pos (Nat.gcd_le_right a hk) (by omega : 0 < Nat.gcd a k)
  omega

/-- A list of `k` indices below `k` is a permutation exactly when it has no repetition. -/
theorem perm_range_iff_nodup {k : Nat} {l : List Nat} (hlen : l.length = k) (hlt : ∀ x ∈ l, x < k) :
    l.Perm (List.range k) ↔ l.Nodup := by
  refine ⟨fun hperm => hperm.nodup_iff.2 List.nodup_range, fun hnodup => ?_⟩
  refine (List.subperm_of_subset hnodup fun x hx => List.mem_range.2 (hlt x hx)).perm_of_length_le ?_
  simp [hlen]

/-! ## Interleaving and back (R63) -/

/-- Writing at distinct positions: the place `f i` holds what was written for `i`, and a place not in the list of writes
what it held before. -/
theorem foldl_set_getElem? {α : Type} {f : Nat → Nat} {g : Nat → α} {l : List Nat} (hnodup : (l.map f).Nodup)
    (y : List α) :
    (∀ i ∈ l, f i < y.length → (l.foldl (fun y i => y.set (f i) (g i)) y)[f i]? = some (g i)) ∧
      ∀ j, j ∉ l.map f → (l.foldl (fun y i => y.set (f i) (g i)) y)[j]? = y[j]? := by
  induction l generalizing y with
  | nil => simp
  | cons i l ih =>
    obtain ⟨hi, hl⟩ := List.nodup_cons.1 hnodup
    obtain ⟨hwritten, hkept⟩ := ih hl (y.set (f i) (g i))
    refine ⟨fun j hj hlt => ?_, fun j hj => ?_⟩
    · rcases List.mem_cons.1 hj with rfl | hj
      · exact (hkept _ hi).trans (by simp [hlt])
      · exact hwritten j hj (by simpa using hlt)
    · obtain ⟨hne, hj⟩ := not_or.1 (List.mem_cons.not.1 hj)
      exact (hkept j hj).trans (by simp [Ne.symm hne])

theorem interleave_getElem? (P : Params) (x : Bits) {k a i : Nat} (hgcd : Nat.gcd a k = 1) (hi : i < k) :
    (interleave P x k a)[deintIndex P k a i]? = some (x.getD i false) := by
  have hk : 0 < k := by omega
  exact (foldl_set_getElem? ((nodup_deintIndex_iff P hk a).2 hgcd) _).1 i (List.mem_range.2 hi)
    (by simpa using deintIndex_lt P hk a i)

theorem deinterleave_getElem? (P : Params) (d : Bits) (a : Nat) {k i : Nat} (hi : i < k) :
    (deinterleave P d k a)[i]? = some (d.getD (deintIndex P k a i) false) := by
  simp [deinterleave, hi]

/-- Deinterleaving a vector of K bits only reads inside it. -/
theorem deinterleave_getElem?_of_length (P : Params) {d : Bits} {k : Nat} (hlen : d.length = k) (a : Nat) {i : Nat}
    (hi : i < k) : (deinterleave P d k a)[i]? = d[deintIndex P k a i]? := by
  have hsource : deintIndex P k a i < d.length := hlen ▸ deintIndex_lt P (by omega) a i
  rw [deinterleave_getElem? P d a hi, List.getD_eq_getElem _ _ hsource, List.getElem?_eq_getElem hsource]

end Sys2Proof.Machine

namespace Sys2Proof

open Machine

/-- Settles O35: K indices below K permute exactly when none repeats. -/
theorem deinterleaveIsPermutation : Obligations.DeinterleaveIsPermutation := by
  intro P k a hk
  rw [perm_range_iff_nodup (by simp) (by simpa using fun i _ => deintIndex_lt P hk a i), nodup_deintIndex_iff P hk a]

/-- Settles O34: output `i` reads the place where the interleaver wrote element `i`. -/
theorem deinterleaveInvertsInterleave : Obligations.DeinterleaveInvertsInterleave := by
  intro P x k a hlen hgcd
  refine List.ext_getElem? fun i => ?_
  by_cases hi : i < k
  · rw [deinterleave_getElem? P _ a hi, List.getD_eq_getElem?_getD, interleave_getElem? P x hgcd hi, Option.getD_some,
      List.getD_eq_getElem _ _ (hlen ▸ hi), List.getElem?_eq_getElem (hlen ▸ hi)]
  · rw [List.getElem?_eq_none (by rw [deinterleave_length]; omega), List.getElem?_eq_none (by omega)]

/-- Settles O17: the checks of the command in R97's order, and `deinterleave` element by element. -/
theorem deinterleaveCommand : Obligations.DeinterleaveCommand := by
  refine ⟨rfl, fun k a d s hlen => ⟨congrArg (0x11 :: ·) (List.append_assoc ..).symm,
    by simp [encode, Instr.operandBytes, hlen]; omega,
    fun hclosed => exec_of_closed hclosed id,
    fun hopen hbad => exec_of_error ((unlessClosed_open hopen _).trans (withBits_of_bad hbad _)), ?_⟩⟩
  rintro hopen v rfl
  refine ⟨fun hparam => exec_of_error ((unlessClosed_open hopen _).trans ((withBits_bitsBytes v _).trans ?_)),
    fun hk hgcd => ⟨deinterleave s.params v k.toNat a.toNat, deinterleave_length .., fun i hi =>
      deinterleave_getElem?_of_length s.params (by simpa using hlen) _ hi,
      exec_of_ok ((unlessClosed_open hopen _).trans ((withBits_bitsBytes v _).trans ?_))⟩⟩
  · exact if_pos (by simpa using hparam)
  · rw [if_neg (by simp [hk, hgcd]), u16Nat_toNat]

end Sys2Proof
end

section
/-! The depuncturer (spec/41_primitives.md R65, R66): a group of eight trits position by position, puncturing and back,
and DEPUNCTURE23 as a command. -/

open Sys2Proof.Spec

namespace Sys2Proof.Machine

/-! ## Groups of eight (R65) -/

theorem punctureGroup_getElem? (P : Params) (x y z : Bool) {k : Nat} (hk : k < 8) :
    (punctureGroup P x y z)[k]? =
      some (if k = P.keep0 then tritBit x else if k = P.keep1 then tritBit y else if k = P.keep2 then tritBit z
        else .erased) := by
  simp [punctureGroup, Config.punctPeriod, hk]

/-- Element `k` of group `j` of the depunctured vector: one of the group's three bits, or an erasure. -/
theorem depuncture23_getElem? (P : Params) :
    ∀ (v : Bits) (j k : Nat), j < v.length / 3 → k < 8 →
      (depuncture23 P v)[8 * j + k]? =
        if k = P.keep0 then v[3 * j]?.map tritBit
        else if k = P.keep1 then v[3 * j + 1]?.map tritBit
        else if k = P.keep2 then v[3 * j + 2]?.map tritBit
        else some .erased
  | [], _, _, hj, _ | [_], _, _, hj, _ | [_, _], _, _, hj, _ => by simp at hj
  | x :: y :: z :: rest, 0, k, _, hk => by
    rw [depuncture23, Nat.mul_zero, Nat.zero_add, List.getElem?_append_left (by simpa using hk),
      punctureGroup_getElem? P x y z hk]
    split_ifs <;> rfl
  | x :: y :: z :: rest, j + 1, k, hj, hk => by
    rw [depuncture23, List.getElem?_append_right (by rw [punctureGroup_length]; omega), punctureGroup_length,
      show 8 * (j + 1) + k - 8 = 8 * j + k by omega,
      depuncture23_getElem? P rest j k (by simp only [List.length_cons] at hj; omega) hk]
    rfl

/-! ## Puncturing and back (R66) -/

/-- A vector with every unkept position of each group of eight erased. -/
def eraseUnkept (P : Params) (m : Bits) : Trits :=
  m.mapIdx fun i x => if i % 8 = P.keep0 ∨ i % 8 = P.keep1 ∨ i % 8 = P.keep2 then tritBit x else .erased

theorem eraseUnkept_append (P : Params) {g : Bits} (hlen : g.length = 8) (m : Bits) :
    eraseUnkept P (g ++ m) = eraseUnkept P g ++ eraseUnkept P m := by
  simp [eraseUnkept, List.mapIdx_append, hlen]

/-- The three kept bits of a group, put back at their positions. -/
theorem punctureGroup_of_kept {P : Params} (hkeep : P.keepFits = true) {g : Bits} (hlen : g.length = 8) :
    punctureGroup P (g.getD P.keep0 false) (g.getD P.keep1 false) (g.getD P.keep2 false) = eraseUnkept P g := by
  obtain ⟨h01, h12, h2⟩ := Params.keepFits_iff.1 hkeep
  have h2 : P.keep2 < 8 := h2
  refine List.ext_getElem? fun k => ?_
  by_cases hk : k < 8
  · rw [punctureGroup_getElem? P _ _ _ hk, eraseUnkept, List.getElem?_mapIdx,
      List.getElem?_eq_getElem (show k < g.length by omega), Option.map_some, Nat.mod_eq_of_lt hk]
    by_cases hk0 : k = P.keep0
    · subst hk0
      simp [hlen, hk]
    by_cases hk1 : k = P.keep1
    · subst hk1
      simp [hlen, hk, hk0]
    by_cases hk2 : k = P.keep2
    · subst hk2
      simp [hlen, hk, hk0, hk1]
    simp [hk0, hk1, hk2]
  · rw [List.getElem?_eq_none (by rw [punctureGroup_length]; omega),
      List.getElem?_eq_none (by rw [eraseUnkept, List.length_mapIdx]; omega)]

/-- A vector of whole groups of eight, as the recursion of `puncture23` takes it apart. -/
theorem groupsOfEight_induction {Q : ∀ m : Bits, m.length % 8 = 0 → Prop} (nil : Q [] rfl)
    (group : ∀ x0 x1 x2 x3 x4 x5 x6 x7 rest hrest h,
      Q rest hrest → Q (x0 :: x1 :: x2 :: x3 :: x4 :: x5 :: x6 :: x7 :: rest) h) :
    ∀ (m : Bits) (h : m.length % 8 = 0), Q m h
  | [], _ => nil
  | [_], h | [_, _], h | [_, _, _], h | [_, _, _, _], h | [_, _, _, _, _], h | [_, _, _, _, _, _], h
  | [_, _, _, _, _, _, _], h => by simp at h
  | x0 :: x1 :: x2 :: x3 :: x4 :: x5 :: x6 :: x7 :: rest, h =>
    have hrest : rest.length % 8 = 0 := by simp only [List.length_cons] at h; omega
    group x0 x1 x2 x3 x4 x5 x6 x7 rest hrest h (groupsOfEight_induction nil group rest hrest)

theorem puncture23_length (P : Params) {m : Bits} (hm : m.length % 8 = 0) :
    (puncture23 P m).length = 3 * (m.length / 8) := by
  induction m, hm using groupsOfEight_induction with
  | nil => rfl
  | group x0 x1 x2 x3 x4 x5 x6 x7 rest _ _ ih =>
    simp only [puncture23, List.length_cons, ih]
    omega

theorem depuncture23_puncture23 {P : Params} (hkeep : P.keepFits = true) {m : Bits} (hm : m.length % 8 = 0) :
    depuncture23 P (puncture23 P m) = eraseUnkept P m := by
  induction m, hm using groupsOfEight_induction with
  | nil => rfl
  | group x0 x1 x2 x3 x4 x5 x6 x7 rest _ _ ih =>
    let g := [x0, x1, x2, x3, x4, x5, x6, x7]
    calc depuncture23 P (puncture23 P (g ++ rest))
        = punctureGroup P (g.getD P.keep0 false) (g.getD P.keep1 false) (g.getD P.keep2 false) ++
            depuncture23 P (puncture23 P rest) := rfl
      _ = eraseUnkept P g ++ eraseUnkept P rest := by rw [punctureGroup_of_kept hkeep rfl, ih]
      _ = eraseUnkept P (g ++ rest) := (eraseUnkept_append P rfl rest).symm

/-! ## DEPUNCTURE23 as a command (R65) -/

theorem exec_depuncture23_of_badLength {s : State} {d : List Byte} (hopen : s.block.closed = false)
    (hbad : d.length % 3 ≠ 0 ∨ 8 * d.length / 3 > 65535) :
    exec (.depuncture23 d) s = .next { s with responses := s.responses ++ [⟨.badLength, []⟩] } :=
  exec_of_error ((unlessClosed_open hopen _).trans (if_pos (by simpa [Config.vecMax] using hbad)))

/-- Past CLOSED and the length rules the command validates its elements and depunctures them. -/
theorem resultOf_depuncture23 {P : Params} {b : Block} {d : List Byte} (hopen : b.closed = false)
    (hmod : d.length % 3 = 0) (hmax : 8 * d.length / 3 ≤ 65535) :
    resultOf P (.depuncture23 d) b = withBits d fun v => .ok (b, countedVec (tritsBytes (depuncture23 P v))) :=
  (unlessClosed_open hopen _).trans (if_neg (by simpa [Config.vecMax, hmod] using hmax))

end Sys2Proof.Machine

namespace Sys2Proof

open Machine

/-- Settles O36: group by group, each kept bit goes back to its position. -/
theorem depunctureOfPuncture : Obligations.DepunctureOfPuncture :=
  fun P _ hkeep hm => ⟨puncture23_length P hm, depuncture23_puncture23 hkeep hm⟩

/-- Settles O18: the length rules before the element check, and `depuncture23` position by position. -/
theorem depuncture23Command : Obligations.Depuncture23Command := by
  refine ⟨⟨rfl, rfl, rfl⟩, fun d s => ⟨rfl, by simp [encode, Instr.operandBytes]; omega,
    fun hclosed => exec_of_closed hclosed id, fun hopen hbad => exec_depuncture23_of_badLength hopen hbad,
    fun hopen hmod hmax hbad => exec_of_error ((resultOf_depuncture23 hopen hmod hmax).trans (withBits_of_bad hbad _)),
    ?_⟩⟩
  rintro hopen hmod hmax v rfl - - -
  have hlen : (depuncture23 s.params v).length = 8 * v.length / 3 := by
    rw [bitsBytes_length] at hmod
    rw [depuncture23_length]
    omega
  refine ⟨depuncture23 s.params v, hlen, fun j hj k hk => depuncture23_getElem? s.params v j k hj hk,
    exec_of_ok ((resultOf_depuncture23 hopen hmod hmax).trans ((withBits_bitsBytes v _).trans ?_))⟩
  rw [countedVec_tritsBytes, hlen]

end Sys2Proof
end

section
/-! The Reed-Muller decoder and the CRC-16 validator (spec/41_primitives.md R70 to R73): the register as a shift of its
xor with the input, which bits appended to a vector leave the residue, and RM_DECODE and CRC16_CHECK as commands. -/

open Sys2Proof.Spec

namespace Sys2Proof.Machine

/-! ## One step of the register (R71) -/

theorem crcStep_toNat_of_eq {c : Word16} {x : Bool} (h : c.getLsbD 15 = x) :
    (crcStep c x).toNat = 2 * c.toNat % 65536 := by
  have hfeedback : (c.msb ^^ x) = false := by rw [BitVec.msb_eq_getLsbD_last, h, Bool.xor_self]
  simp [crcStep, hfeedback, BitVec.toNat_shiftLeft, Nat.shiftLeft_eq, Nat.mul_comm]

theorem crcStep_of_ne {c : Word16} {x : Bool} (h : c.getLsbD 15 ≠ x) :
    crcStep c x = BitVec.ofNat 16 (2 * c.toNat) ^^^ 0x1021 := by
  have hfeedback : (c.msb ^^ x) = true := by simpa [BitVec.msb_eq_getLsbD_last] using h
  have hshift : c <<< 1 = BitVec.ofNat 16 (2 * c.toNat) :=
    BitVec.eq_of_toNat_eq (by simp [BitVec.toNat_shiftLeft, Nat.shiftLeft_eq, Nat.mul_comm])
  rw [crcStep, if_pos hfeedback, hshift]
  rfl

/-! ## The register as a linear map

An input bit meets the register's top bit, so a step is one fixed linear injective map of the register xor that bit.
Sixteen steps then act on the register xor the sixteen input bits as a word. -/

/-- What a feedback bit adds to the shifted register. -/
def crcFeedback (fb : Bool) : Word16 := if fb then Config.crcPoly else 0

/-- The step of the register on a zero input. -/
def crcShift (c : Word16) : Word16 := c <<< 1 ^^^ crcFeedback c.msb

/-- An input bit at the register's top. -/
def crcTop (x : Bool) : Word16 := (BitVec.ofBool x).setWidth 16 <<< 15

theorem crcStep_eq_crcShift (c : Word16) (x : Bool) : crcStep c x = crcShift (c ^^^ crcTop x) := by
  have hmsb : (crcTop x).msb = x := by cases x <;> decide
  have hout : crcTop x <<< 1 = 0 := by cases x <;> decide
  rw [crcShift, BitVec.shiftLeft_xor_distrib, BitVec.msb_xor, hmsb, hout, crcStep, crcFeedback]
  split <;> simp

theorem crcFeedback_xor (x y : Bool) : crcFeedback (x ^^ y) = crcFeedback x ^^^ crcFeedback y := by
  revert x y; decide

theorem crcShift_xor (c d : Word16) : crcShift (c ^^^ d) = crcShift c ^^^ crcShift d := by
  simp only [crcShift, BitVec.shiftLeft_xor_distrib, BitVec.msb_xor, crcFeedback_xor]
  ac_rfl

theorem crcShift_of_msb_eq_false {c : Word16} (h : c.msb = false) : crcShift c = c <<< 1 := by
  simp [crcShift, crcFeedback, h]

/-- The polynomial has a constant term, so bit 0 after a step is the feedback bit. -/
theorem crcShift_getLsbD_zero (c : Word16) : (crcShift c).getLsbD 0 = c.msb := by
  cases h : c.msb <;> simp [crcShift, crcFeedback, h, Config.crcPoly]

theorem crcShift_injective : Function.Injective crcShift := by
  intro c d h
  have hmsb : c.msb = d.msb := by rw [← crcShift_getLsbD_zero, h, crcShift_getLsbD_zero]
  have hshift : c <<< 1 = d <<< 1 := by
    rw [crcShift, crcShift, hmsb] at h
    exact (BitVec.xor_left_inj _).1 h
  refine BitVec.eq_of_getLsbD_eq fun i hi => ?_
  by_cases htop : i = 15
  · subst htop
    simpa only [BitVec.msb_eq_getLsbD_last] using hmsb
  · have hbit := congrArg (fun w => w.getLsbD (i + 1)) hshift
    simpa [hi, show i + 1 < 16 by omega, show i < 15 by omega] using hbit

/-- Up to sixteen bits as a word, the first at the top. -/
def wordOf : Bits → Word16
  | [] => 0
  | x :: f => crcTop x ^^^ wordOf f >>> 1

theorem crcTop_getLsbD (x : Bool) {i : Nat} (hi : i < 16) : (crcTop x).getLsbD i = (decide (i = 15) && x) := by
  revert i; cases x <;> decide

/-- Element `i` is bit `15 − i` of the word; the bits below the vector are clear. -/
theorem wordOf_getLsbD (f : Bits) {i : Nat} (hi : i < 16) : (wordOf f).getLsbD (15 - i) = f.getD i false := by
  induction f generalizing i with
  | nil => simp [wordOf]
  | cons x f ih =>
    rw [wordOf, BitVec.getLsbD_xor, BitVec.getLsbD_ushiftRight, crcTop_getLsbD x (by omega)]
    cases i with
    | zero => simp
    | succ i =>
      rw [show 1 + (15 - (i + 1)) = 15 - i by omega, ih (by omega), decide_eq_false (by omega)]
      simp

theorem wordOf_eq_iff {f : Bits} (hlen : f.length = 16) (w : Word16) :
    wordOf f = w ↔ f = (List.range 16).map fun i => w.getLsbD (15 - i) := by
  constructor
  · rintro rfl
    refine List.ext_getElem (by simpa using hlen) fun i hi hi' => ?_
    rw [List.getElem_map, List.getElem_range, wordOf_getLsbD f (by omega), List.getD_eq_getElem]
  · intro hf
    refine BitVec.eq_of_getLsbD_eq fun i hi => ?_
    have hbit := wordOf_getLsbD f (show 15 - i < 16 by omega)
    rw [show 15 - (15 - i) = i by omega] at hbit
    rw [hbit, hf]
    simp [show 15 - i < 16 by omega, show 15 - (15 - i) = i by omega]

/-- A step only shifts a word of fewer than sixteen bits back up. -/
theorem crcShift_wordOf_ushiftRight {f : Bits} (hlen : f.length < 16) : crcShift (wordOf f >>> 1) = wordOf f := by
  have hlast : (wordOf f).getLsbD 0 = false := by
    rw [show 0 = 15 - 15 by rfl, wordOf_getLsbD f (by omega), List.getD_eq_default _ _ (by omega)]
  rw [crcShift_of_msb_eq_false (by simp)]
  refine BitVec.eq_of_getLsbD_eq fun i hi => ?_
  cases i with
  | zero => simpa using hlast.symm
  | succ i => simp [hi, Nat.add_comm]

/-- Up to sixteen input bits enter the register as one word. -/
theorem foldl_crcStep_eq {f : Bits} (hlen : f.length ≤ 16) (c : Word16) :
    f.foldl crcStep c = crcShift^[f.length] (c ^^^ wordOf f) := by
  induction f generalizing c with
  | nil => simp [wordOf]
  | cons x f ih =>
    have hf : f.length < 16 := hlen
    calc (x :: f).foldl crcStep c
        = crcShift^[f.length] (crcStep c x ^^^ wordOf f) := ih hf.le (crcStep c x)
      _ = crcShift^[f.length] (crcShift (c ^^^ crcTop x) ^^^ crcShift (wordOf f >>> 1)) := by
          rw [crcStep_eq_crcShift, crcShift_wordOf_ushiftRight hf]
      _ = crcShift^[f.length + 1] (c ^^^ wordOf (x :: f)) := by
          rw [← crcShift_xor, BitVec.xor_assoc, Function.iterate_succ_apply, wordOf]

/-! ## The frame check sequence (R73) -/

/-- The register after a vector and sixteen bits appended to it. -/
theorem crcReg_append (x : Bits) {f : Bits} (hlen : f.length = 16) :
    crcReg (x ++ f) (x.length + 16) = crcShift^[16] (crcReg x x.length ^^^ wordOf f) := by
  have hfold := foldl_crcStep_eq hlen.le (x.foldl crcStep Config.crcInit)
  rw [hlen] at hfold
  simpa [crcReg, List.take_of_length_le, hlen] using hfold

/-- The residue is what sixteen steps make of the all-ones word. -/
theorem crcResidue_eq : Config.crcResidue = crcShift^[16] (BitVec.allOnes 16) := by decide

theorem xor_eq_allOnes_iff (c w : Word16) : c ^^^ w = BitVec.allOnes 16 ↔ w = ~~~ c := by
  have hself : c ^^^ ~~~ c = BitVec.allOnes 16 := by
    rw [← BitVec.xor_allOnes, ← BitVec.xor_assoc, BitVec.xor_self, BitVec.zero_xor]
  rw [← hself, BitVec.xor_right_inj]

theorem crc16Check_append_iff (x : Bits) {f : Bits} (hlen : f.length = 16) :
    crc16Check (x ++ f) (x.length + 16) = true ↔ f = fcs x := by
  rw [crc16Check, beq_iff_eq, crcReg_append x hlen, crcResidue_eq, (crcShift_injective.iterate 16).eq_iff,
    xor_eq_allOnes_iff, wordOf_eq_iff hlen, fcs]

theorem fcs_map_not (x : Bits) :
    (fcs x).map not = (List.range 16).map fun i => (crcReg x x.length).getLsbD (15 - i) := by
  rw [fcs, List.map_map]
  exact List.map_congr_left fun i _ => by simp [show 15 - i < 16 by omega]

theorem crcReg_append_plain (x : Bits) : crcReg (x ++ (fcs x).map not) (x.length + 16) = 0 := by
  have hlen : ((fcs x).map not).length = 16 := by simp [fcs]
  rw [crcReg_append x hlen, (wordOf_eq_iff hlen _).2 (fcs_map_not x), BitVec.xor_self]
  decide

/-! ## CRC16_CHECK as a command (R72) -/

theorem resultOf_crc16Check {P : Params} {b : Block} {len : Word16} {d : List Byte} (hopen : b.closed = false)
    (hlen : len.toNat ≤ d.length) :
    resultOf P (.crc16Check len d) b = withBits d fun v => .ok (b, [bitByte (crc16Check v len.toNat)]) :=
  (unlessClosed_open hopen _).trans (if_neg (by simpa using hlen))

/-- The elements after the checked length do not enter the register. -/
theorem crc16Check_append (v w : Bits) : crc16Check (v ++ w) v.length = (v.foldl crcStep 0xFFFF == 0x1D0F) := by
  simp [crc16Check, crcReg, Config.crcInit, Config.crcResidue]

end Sys2Proof.Machine

namespace Sys2Proof

open Machine

/-- Settles O39: sixteen appended bits act as one word under an injective map that takes all ones to the residue. -/
theorem crcPassesExactlyForFcs : Obligations.CrcPassesExactlyForFcs :=
  fun x => ⟨fun _ hlen => crc16Check_append_iff x hlen, crcReg_append_plain x⟩

/-- Settles O21: the register's step, and the command's length rule before its element check. -/
theorem crc16CheckCommand : Obligations.Crc16CheckCommand := by
  refine ⟨fun c x => ⟨crcStep_toNat_of_eq, crcStep_of_ne⟩, fun len d s => ⟨
    congrArg (0x15 :: ·) (List.append_assoc ..).symm, by simp [encode, Instr.operandBytes]; omega,
    fun hclosed => exec_of_closed hclosed id,
    fun hopen hbad => exec_of_error ((unlessClosed_open hopen _).trans (if_pos (by simpa using hbad))),
    fun hopen hlen hbad => exec_of_error ((resultOf_crc16Check hopen hlen).trans (withBits_of_bad hbad _)), ?_⟩⟩
  rintro hopen v w hlen rfl
  refine exec_of_ok ((resultOf_crc16Check hopen (by simp [← hlen])).trans ((withBits_bitsBytes _ _).trans ?_))
  rw [← hlen, crc16Check_append]
  simp [bitByte]

/-- Settles O20: the command answers the first 14 elements, behind the checks of CLOSED and of the elements. -/
theorem rmDecodeCommand : Obligations.RmDecodeCommand := by
  intro d s hlen
  refine ⟨rfl, by simp [encode, Instr.operandBytes, hlen], fun hclosed => exec_of_closed hclosed id,
    fun hopen hbad => exec_of_error ((unlessClosed_open hopen _).trans (withBits_of_bad hbad _)), ?_⟩
  rintro hopen info parity hinfo rfl
  refine exec_of_ok ((unlessClosed_open hopen _).trans ((withBits_bitsBytes _ _).trans ?_))
  simp [rmDecode, slice, Config.rmK, hinfo]

end Sys2Proof
end

section
/-! The Viterbi decoder (spec/41_primitives.md R67, R68): after every trellis step the metrics are the least that reach
each state and the survivors trace back an input that has them, whatever the tie rules; and VITERBI as a command. -/

open Sys2Proof.Spec

namespace Sys2Proof.Machine

/-! ## The coder over a longer input (R67) -/

/-- The coder's state after an input, from state 0. -/
def convState (u : Bits) : BitVec 4 := u.foldl convNext 0

@[simp] theorem convState_concat (u : Bits) (x : Bool) : convState (u ++ [x]) = convNext (convState u) x := by
  simp [convState]

theorem convEncodeFrom_append (g : Generators) (s : BitVec 4) (u v : Bits) :
    convEncodeFrom g s (u ++ v) = convEncodeFrom g s u ++ convEncodeFrom g (u.foldl convNext s) v := by
  induction u generalizing s with
  | nil => rfl
  | cons x u ih => simp [convEncodeFrom, ih]

theorem convEncodeFrom_length (g : Generators) (s : BitVec 4) (u : Bits) :
    (convEncodeFrom g s u).length = 4 * u.length := by
  induction u generalizing s with
  | nil => rfl
  | cons x u ih => simp only [convEncodeFrom, List.length_append, convOut_length, ih, List.length_cons]; omega

@[simp] theorem convEncode_length (P : Params) (u : Bits) : (convEncode P u).length = 4 * u.length :=
  convEncodeFrom_length ..

/-! ## Path metrics (R68) -/

theorem branchMetric_append {d : Trits} {o : List Bool} (hlen : d.length = o.length) (d' : Trits) (o' : List Bool) :
    branchMetric (d ++ d') (o ++ o') = branchMetric d o + branchMetric d' o' := by
  rw [branchMetric, List.zip_append hlen, List.countP_append]
  rfl

/-- A path's metric grows by the branch metric of its last step. -/
theorem pathMetric_concat {P : Params} {d : Trits} {u : Bits} (hlen : d.length = 4 * u.length) (r : Trits) (x : Bool) :
    pathMetric P (d ++ r) (u ++ [x]) = pathMetric P d u + branchMetric r (convOut P.convG (convState u) x) := by
  rw [pathMetric, convEncode, convEncodeFrom_append,
    branchMetric_append (by rw [hlen, convEncodeFrom_length]), convEncodeFrom, convEncodeFrom, List.append_nil]
  rfl

/-! ## The choice among candidates -/

theorem exists_leastMetric {l : List Nat} (h : l ≠ []) : ∃ m, leastMetric l = some m := by
  cases l with
  | nil => exact absurd rfl h
  | cons x xs => rw [leastMetric]; split <;> exact ⟨_, rfl⟩

/-- Under every tie rule the choice is a candidate of least metric. -/
theorem exists_bestCandidate (rule : TieRule) (choice : Nat → Nat) {cs : List Candidate} (h : cs ≠ []) :
    ∃ c ∈ cs, bestCandidate rule choice cs = some c ∧ ∀ c' ∈ cs, c.metric ≤ c'.metric := by
  obtain ⟨least, hleast⟩ := exists_leastMetric (l := cs.map (·.metric)) (by simpa using h)
  obtain ⟨hmem, hle⟩ := leastMetric_eq_some hleast
  obtain ⟨c₀, hc₀, hmetric₀⟩ := List.mem_map.1 hmem
  obtain ⟨c, hc, hpick⟩ := pickTied_mem rule choice (tied := cs.filter fun c => c.metric == least)
    (List.ne_nil_of_mem (List.mem_filter.2 ⟨hc₀, by simpa using hmetric₀⟩))
  obtain ⟨hcs, hmetric⟩ := List.mem_filter.1 hc
  refine ⟨c, hcs, by rw [bestCandidate, hleast]; exact hpick, fun c' hc' => ?_⟩
  rw [beq_iff_eq.1 hmetric]
  exact hle _ (List.mem_map_of_mem hc')

theorem mem_of_bestCandidate {rule : TieRule} {choice : Nat → Nat} {cs : List Candidate} {c : Candidate}
    (h : bestCandidate rule choice cs = some c) : c ∈ cs := by
  have hne : cs ≠ [] := by rintro rfl; cases h
  obtain ⟨c₀, hmem, hbest, -⟩ := exists_bestCandidate rule choice hne
  cases hbest.symm.trans h
  exact hmem

/-! ## Rows of the trellis -/

theorem mem_allStates (n : BitVec 4) : n ∈ allStates := by revert n; decide

/-- A row indexed by the states holds at state `n` its entry for `n`. -/
theorem allStates_map_getD {α : Type} (f : BitVec 4 → Option α) (n : BitVec 4) :
    (allStates.map f).getD n.toNat none = f n := by
  have hn : n.toNat < 16 := n.isLt
  simp [allStates, hn]

theorem startMetrics_eq (n : BitVec 4) : metricOf startMetrics n = if n = 0 then some 0 else none := by
  revert n; decide

theorem mem_candidates_iff {P : Params} {m : List (Option Nat)} {r : Trits} {n : BitVec 4} {c : Candidate} :
    c ∈ candidates P m r n ↔ ∃ p x k, convNext p x = n ∧ metricOf m p = some k ∧
      c = ⟨k + branchMetric r (convOut P.convG p x), p, x⟩ := by
  rw [candidates, List.mem_filterMap]
  constructor
  · rintro ⟨p, hp, hc⟩
    obtain ⟨x, rfl⟩ := (mem_predecessors_iff p n).1 hp
    rw [msb_convNext] at hc
    split at hc
    next => cases hc
    next k hk => cases hc; exact ⟨p, x, k, rfl, hk, rfl⟩
  · rintro ⟨p, x, k, rfl, hk, rfl⟩
    exact ⟨p, (mem_predecessors_iff p _).2 ⟨x, rfl⟩, by rw [hk, msb_convNext]⟩

section

variable {P : Params} {received : Trits} {t : Nat} {m : List (Option Nat)} {r : Trits} {n : BitVec 4}

/-- The survivor of a trellis step into state `n`. -/
def survivor (P : Params) (received : Trits) (t : Nat) (m : List (Option Nat)) (r : Trits) (n : BitVec 4) :
    Option Candidate :=
  bestCandidate P.survivorTie (fun id => Config.tieChoice id received t n.toNat) (candidates P m r n)

theorem viterbiStep_getD : (viterbiStep P received t m r).getD n.toNat none = survivor P received t m r n :=
  allStates_map_getD (survivor P received t m r) n

theorem metricOf_viterbiStep :
    metricOf (rowMetrics (viterbiStep P received t m r)) n = (survivor P received t m r n).map (·.metric) := by
  rw [metricOf, rowMetrics, viterbiStep, List.map_map]
  exact allStates_map_getD (fun n => (survivor P received t m r n).map (·.metric)) n

end

theorem traceback_acc (rows : List (List (Option Candidate))) (n : BitVec 4) (acc : Bits) :
    traceback rows n acc = traceback rows n [] ++ acc := by
  induction rows generalizing n acc with
  | nil => rfl
  | cons row rows ih =>
    simp only [traceback]
    split
    · rw [ih _ (_ :: acc), ih _ [_]]; simp
    · rw [ih _ (_ :: acc), ih _ [_]]; simp

/-! ## The forward pass -/

/-- The metrics `m` and the survivor rows are those of the received part `d`: a state with a metric is reached by the
input its survivors trace back, with that metric, and no input reaches a state with less than the state's metric. -/
structure Decodes (P : Params) (d : Trits) (m : List (Option Nat)) (rows : List (List (Option Candidate))) : Prop where
  length : d.length = 4 * rows.length
  traced : ∀ n k, metricOf m n = some k →
    convState (traceback rows n []) = n ∧ pathMetric P d (traceback rows n []) = k
  least : ∀ u : Bits, u.length = rows.length → ∃ k, metricOf m (convState u) = some k ∧ k ≤ pathMetric P d u

theorem Decodes.start (P : Params) : Decodes P [] startMetrics [] where
  length := rfl
  traced := by
    intro n k h
    rw [startMetrics_eq] at h
    split at h
    next hn => cases h; exact ⟨hn.symm, rfl⟩
    next => cases h
  least := by
    intro u hu
    obtain rfl := List.length_eq_zero_iff.1 hu
    exact ⟨0, rfl, le_rfl⟩

theorem Decodes.step {P : Params} {d : Trits} {m : List (Option Nat)} {rows : List (List (Option Candidate))}
    (h : Decodes P d m rows) (received : Trits) (t : Nat) {r : Trits} (hr : r.length = 4) :
    Decodes P (d ++ r) (rowMetrics (viterbiStep P received t m r)) (viterbiStep P received t m r :: rows) where
  length := by simp only [List.length_append, List.length_cons, h.length, hr]; omega
  traced := by
    intro n k hk
    rw [metricOf_viterbiStep] at hk
    obtain ⟨c, hc, rfl⟩ := Option.map_eq_some_iff.1 hk
    obtain ⟨p, x, k₀, rfl, hk₀, rfl⟩ := mem_candidates_iff.1 (mem_of_bestCandidate hc)
    obtain ⟨hstate, hmetric⟩ := h.traced p k₀ hk₀
    have htrace : traceback (viterbiStep P received t m r :: rows) (convNext p x) [] = traceback rows p [] ++ [x] := by
      rw [traceback, viterbiStep_getD, hc]
      exact traceback_acc rows p [x]
    rw [htrace, convState_concat, hstate, pathMetric_concat (by rw [h.length, traceback_length]; rfl), hstate, hmetric]
    exact ⟨rfl, rfl⟩
  least := by
    intro u hu
    obtain ⟨u, x, rfl⟩ := (List.eq_nil_or_concat' u).resolve_left (by rintro rfl; cases hu)
    have hu : u.length = rows.length := by simpa using hu
    obtain ⟨k, hk, hle⟩ := h.least u hu
    have hmem := mem_candidates_iff (P := P) (r := r).2 ⟨convState u, x, k, rfl, hk, rfl⟩
    obtain ⟨c, -, hc, hbest⟩ := exists_bestCandidate P.survivorTie
      (fun id => Config.tieChoice id received t (convNext (convState u) x).toNat) (List.ne_nil_of_mem hmem)
    refine ⟨c.metric, ?_, ?_⟩
    · rw [convState_concat, metricOf_viterbiStep, survivor, hc, Option.map_some]
    · rw [pathMetric_concat (by rw [h.length, hu])]
      exact (hbest _ hmem).trans (Nat.add_le_add_right hle _)

theorem Decodes.forward {P : Params} (received : Trits) :
    ∀ (rest d : Trits) (t : Nat) (m : List (Option Nat)) (rows : List (List (Option Candidate))),
      rest.length % 4 = 0 → Decodes P d m rows →
      Decodes P (d ++ rest) (viterbiForward P received t m rows rest).1 (viterbiForward P received t m rows rest).2
  | [], _, _, _, _, _, h => by simpa [viterbiForward] using h
  | [_], _, _, _, _, hmod, _ | [_, _], _, _, _, _, hmod, _ | [_, _, _], _, _, _, _, hmod, _ => by simp at hmod
  | a :: b :: c :: e :: rest, d, t, m, rows, hmod, h => by
    have hrest : rest.length % 4 = 0 := by simp only [List.length_cons] at hmod; omega
    have hstep := h.step received t (r := [a, b, c, e]) rfl
    simpa [viterbiForward] using Decodes.forward received rest _ (t + 1) _ _ hrest hstep

/-! ## The end state and the output -/

/-- The states with a metric, as the candidates that `endState` chooses from. -/
def reachedStates (m : List (Option Nat)) : List Candidate :=
  allStates.filterMap fun s => (metricOf m s).map fun k => ⟨k, s, false⟩

theorem mem_reachedStates_iff {m : List (Option Nat)} {c : Candidate} :
    c ∈ reachedStates m ↔ ∃ s k, metricOf m s = some k ∧ c = ⟨k, s, false⟩ := by
  simp [reachedStates, mem_allStates, eq_comm]

theorem endState_of_bestCandidate {P : Params} {d : Trits} {t : Nat} {m : List (Option Nat)} {c : Candidate}
    (h : bestCandidate P.endTie (fun id => Config.tieChoice id d t 16) (reachedStates m) = some c) :
    endState P d t m = c.pred := by
  rw [reachedStates] at h
  rw [endState]
  simp only [h]

/-- The end state has the least metric of all, under every tie rule. -/
theorem endState_least {P : Params} {d : Trits} {t : Nat} {m : List (Option Nat)} {n : BitVec 4} {k : Nat}
    (hreached : metricOf m n = some k) : ∃ k₀ ≤ k, metricOf m (endState P d t m) = some k₀ := by
  have hmem := mem_reachedStates_iff.2 ⟨n, k, hreached, rfl⟩
  obtain ⟨c, hc, hbest, hle⟩ := exists_bestCandidate P.endTie (fun id => Config.tieChoice id d t 16)
    (List.ne_nil_of_mem hmem)
  obtain ⟨s, k₀, hk₀, rfl⟩ := mem_reachedStates_iff.1 hc
  exact ⟨k₀, hle _ hmem, by rw [endState_of_bestCandidate hbest, hk₀]⟩

theorem viterbi_eq_traceback (P : Params) (d : Trits) :
    viterbi P d = traceback (viterbiForward P d 0 startMetrics [] d).2
      (endState P d (d.length / 4) (viterbiForward P d 0 startMetrics [] d).1) [] := rfl

theorem viterbi_pathMetric_le (P : Params) {d : Trits} (hmod : d.length % 4 = 0) {u : Bits}
    (hu : u.length = d.length / 4) : pathMetric P d (viterbi P d) ≤ pathMetric P d u := by
  have h : Decodes P d _ _ := Decodes.forward d d [] 0 startMetrics [] hmod (.start P)
  have hrows := viterbiForward_rows_length P d d 0 startMetrics []
  obtain ⟨k, hk, hle⟩ := h.least u (by rw [hu, hrows]; rfl)
  obtain ⟨k₀, hk₀, hend⟩ := endState_least (P := P) (d := d) (t := d.length / 4) hk
  obtain ⟨-, hmetric⟩ := h.traced _ _ hend
  calc pathMetric P d (viterbi P d) = k₀ := by rw [viterbi_eq_traceback, hmetric]
    _ ≤ k := hk₀
    _ ≤ pathMetric P d u := hle

/-! ## VITERBI as a command -/

theorem withTrits_of_bad {d : List Byte} (hbad : ∃ b ∈ d, 2 < b.toNat) (k : Trits → Result) :
    withTrits d k = .error .badElement := by
  simp [withTrits, (tritsOf_eq_none_iff d).2 hbad]

@[simp] theorem withTrits_tritsBytes (v : Trits) (k : Trits → Result) : withTrits (tritsBytes v) k = k v := by
  simp [withTrits]

theorem resultOf_viterbi {P : Params} {b : Block} {d : List Byte} (hopen : b.closed = false)
    (hmod : d.length % 4 = 0) :
    resultOf P (.viterbi d) b = withTrits d fun v => .ok (b, countedVec (bitsBytes (viterbi P v))) :=
  (unlessClosed_open hopen _).trans (if_neg (by simpa using hmod))

end Sys2Proof.Machine

namespace Sys2Proof

open Machine

/-- Settles O37: the output is traced back from the state of least metric, which no path into any state undercuts. -/
theorem viterbiMaximumLikelihood : Obligations.ViterbiMaximumLikelihood :=
  fun P d hmod => ⟨viterbi_length P d, fun _ hu => viterbi_pathMetric_le P hmod hu⟩

/-- Settles O19: the length rule before the element check, and the decoder's output with its length. -/
theorem viterbiCommand : Obligations.ViterbiCommand := by
  refine fun d s => ⟨rfl, by simp [encode, Instr.operandBytes]; omega,
    fun hclosed => exec_of_closed hclosed id,
    fun hopen hbad => exec_of_error ((unlessClosed_open hopen _).trans (if_pos (by simpa using hbad))),
    fun hopen hmod hbad => exec_of_error ((resultOf_viterbi hopen hmod).trans (withTrits_of_bad hbad _)), ?_⟩
  rintro hopen hmod v rfl
  refine ⟨viterbi_length s.params v,
    exec_of_ok ((resultOf_viterbi hopen hmod).trans ((withTrits_tritsBytes v _).trans ?_))⟩
  rw [countedVec_bitsBytes, viterbi_length]

end Sys2Proof
end

section
/-! What the decoder recovers under the default parameters (spec/41_primitives.md R69). A maximum-likelihood decoder
gives back an input whose code agrees with the received vector, where no other input's does: the first generator of the
default sees the input bit itself, so the code determines its input even after the puncturing. -/

open Sys2Proof.Spec

namespace Sys2Proof.Machine

/-! ## Decoding a vector that only one input agrees with -/

theorem viterbi_eq_of_unique {P : Params} {d : Trits} {u : Bits} (hlen : d.length = 4 * u.length)
    (hzero : pathMetric P d u = 0) (hunique : ∀ w : Bits, w.length = u.length → pathMetric P d w = 0 → w = u) :
    viterbi P d = u := by
  have hle := viterbi_pathMetric_le P (d := d) (by omega) (u := u) (by omega)
  refine hunique _ (by rw [viterbi_length]; omega) ?_
  omega

@[simp] theorem disagrees_tritBit (x y : Bool) : Trit.disagrees (tritBit x) y = (x != y) := by
  revert x y; decide

@[simp] theorem disagrees_erased (y : Bool) : Trit.disagrees .erased y = false := rfl

/-- Without erasures only equal vectors agree. -/
theorem branchMetric_map_tritBit_eq_zero_iff {v o : Bits} (hlen : v.length = o.length) :
    branchMetric (v.map tritBit) o = 0 ↔ v = o := by
  induction v generalizing o with
  | nil => simp [List.length_eq_zero_iff.1 hlen.symm, branchMetric]
  | cons x v ih =>
    cases o with
    | nil => cases hlen
    | cons y o =>
      have hhead : branchMetric [tritBit x] [y] = 0 ↔ x = y := by simp [branchMetric]
      rw [List.map_cons, ← List.singleton_append, ← List.singleton_append (l := o), branchMetric_append rfl,
        Nat.add_eq_zero_iff, hhead, ih (Nat.succ.inj hlen)]
      simp

/-! ## The default code determines its input -/

/-- The first mother bit of a coder step and the state before it determine the input bit. -/
theorem firstParity_inj (s : BitVec 4) (x y : Bool)
    (h : tapParity Params.default.convG.g1 (BitVec.cons x s) = tapParity Params.default.convG.g1 (BitVec.cons y s)) :
    x = y := by
  revert s x y; decide

theorem convEncodeFrom_default_inj :
    ∀ (u w : Bits) (s : BitVec 4), u.length = w.length →
      convEncodeFrom Params.default.convG s u = convEncodeFrom Params.default.convG s w → u = w
  | [], [], _, _, _ => rfl
  | x :: u, y :: w, s, hlen, h => by
    obtain ⟨hhead, htail⟩ := List.append_inj h rfl
    obtain rfl := firstParity_inj s x y (List.cons.inj hhead).1
    rw [convEncodeFrom_default_inj u w _ (Nat.succ.inj hlen) htail]

/-- Two coder steps and the puncturing of their eight bits: both steps keep their first mother bit. -/
theorem puncture23_convEncodeFrom_cons_cons (s : BitVec 4) (x y : Bool) (u : Bits) :
    puncture23 Params.default (convEncodeFrom Params.default.convG s (x :: y :: u)) =
      tapParity Params.default.convG.g1 (BitVec.cons x s) :: tapParity Params.default.convG.g2 (BitVec.cons x s) ::
        tapParity Params.default.convG.g1 (BitVec.cons y (convNext s x)) ::
          puncture23 Params.default (convEncodeFrom Params.default.convG (convNext (convNext s x) y) u) := (rfl)

theorem puncture23_convEncodeFrom_inj :
    ∀ (u w : Bits) (s : BitVec 4), u.length % 2 = 0 → u.length = w.length →
      puncture23 Params.default (convEncodeFrom Params.default.convG s u) =
        puncture23 Params.default (convEncodeFrom Params.default.convG s w) → u = w
  | [], [], _, _, _, _ => rfl
  | [_], _, _, heven, _, _ => by cases heven
  | x :: x' :: u, y :: y' :: w, s, heven, hlen, h => by
    rw [puncture23_convEncodeFrom_cons_cons, puncture23_convEncodeFrom_cons_cons] at h
    simp only [List.cons.injEq] at h
    obtain ⟨hx, -, hx', htail⟩ := h
    obtain rfl := firstParity_inj s x y hx
    obtain rfl := firstParity_inj _ x' y' hx'
    rw [puncture23_convEncodeFrom_inj u w _ ((Nat.add_mod_right u.length 2).symm.trans heven)
      (by simpa using hlen) htail]

/-- The punctured code of an input with a 1 holds a 1: from state 0 the first 1 comes through the first generator. -/
theorem true_mem_puncture23_convEncode :
    ∀ u : Bits, u.length % 2 = 0 → true ∈ u → true ∈ puncture23 Params.default (convEncode Params.default u)
  | [_], heven, _ => by cases heven
  | x :: y :: u, heven, hmem => by
    rw [convEncode, puncture23_convEncodeFrom_cons_cons]
    cases x with
    | true => exact List.mem_cons_self
    | false =>
      cases y with
      | true =>
        have hone : tapParity Params.default.convG.g1 (BitVec.cons true (convNext 0 false)) = true := by decide
        rw [hone]
        simp only [List.mem_cons, true_or, or_true]
      | false =>
        have hrest := true_mem_puncture23_convEncode u ((Nat.add_mod_right u.length 2).symm.trans heven)
          (by simpa using hmem)
        have hstay : convNext (convNext 0 false) false = 0 := by decide
        rw [hstay]
        simp only [List.mem_cons]
        exact .inr (.inr (.inr hrest))

/-! ## Agreement with a depunctured vector -/

/-- A group agrees with eight bits exactly when its three bits are the kept ones. -/
theorem branchMetric_punctureGroup_eq_zero_iff (x y z x0 x1 x2 x3 x4 x5 x6 x7 : Bool) :
    branchMetric (punctureGroup Params.default x y z) [x0, x1, x2, x3, x4, x5, x6, x7] = 0 ↔
      x = x0 ∧ y = x1 ∧ z = x4 := by
  have hgroup : punctureGroup Params.default x y z =
      [tritBit x, tritBit y, .erased, .erased, tritBit z, .erased, .erased, .erased] := rfl
  simp [hgroup, branchMetric]

theorem branchMetric_depuncture23_eq_zero_iff {m : Bits} (hm : m.length % 8 = 0) {p : Bits}
    (hp : p.length = 3 * (m.length / 8)) :
    branchMetric (depuncture23 Params.default p) m = 0 ↔ p = puncture23 Params.default m := by
  induction m, hm using groupsOfEight_induction generalizing p with
  | nil => simp [List.length_eq_zero_iff.1 hp, puncture23, depuncture23, branchMetric]
  | group x0 x1 x2 x3 x4 x5 x6 x7 rest hrest _ ih =>
    obtain ⟨x, y, z, p, rfl⟩ : ∃ x y z q, p = x :: y :: z :: q := by
      rcases p with _ | ⟨x, _ | ⟨y, _ | ⟨z, q⟩⟩⟩
      case cons.cons.cons => exact ⟨x, y, z, q, rfl⟩
      all_goals simp only [List.length_cons, List.length_nil] at hp; omega
    have hp : p.length = 3 * (rest.length / 8) := by simp only [List.length_cons] at hp; omega
    have hsplit : branchMetric (depuncture23 Params.default (x :: y :: z :: p))
          (x0 :: x1 :: x2 :: x3 :: x4 :: x5 :: x6 :: x7 :: rest) =
        branchMetric (punctureGroup Params.default x y z) [x0, x1, x2, x3, x4, x5, x6, x7] +
          branchMetric (depuncture23 Params.default p) rest :=
      branchMetric_append (o := [x0, x1, x2, x3, x4, x5, x6, x7]) (punctureGroup_length ..) _ _
    have hpuncture : puncture23 Params.default (x0 :: x1 :: x2 :: x3 :: x4 :: x5 :: x6 :: x7 :: rest) =
        x0 :: x1 :: x4 :: puncture23 Params.default rest := rfl
    rw [hsplit, Nat.add_eq_zero_iff, branchMetric_punctureGroup_eq_zero_iff, ih hp, hpuncture]
    simp [and_assoc]

theorem viterbi_convEncode (u : Bits) :
    viterbi Params.default ((convEncode Params.default u).map tritBit) = u := by
  refine viterbi_eq_of_unique (by simp) ((branchMetric_map_tritBit_eq_zero_iff rfl).2 rfl) fun w hw hzero => ?_
  have hcode := (branchMetric_map_tritBit_eq_zero_iff (by simp [hw])).1 hzero
  exact convEncodeFrom_default_inj w u 0 hw hcode.symm

theorem viterbi_depuncture23_puncture23 {u : Bits} (heven : u.length % 2 = 0) :
    viterbi Params.default
      (depuncture23 Params.default (puncture23 Params.default (convEncode Params.default u))) = u := by
  have hagree : ∀ w : Bits, w.length = u.length →
      (pathMetric Params.default
          (depuncture23 Params.default (puncture23 Params.default (convEncode Params.default u))) w = 0 ↔
        puncture23 Params.default (convEncode Params.default u) =
          puncture23 Params.default (convEncode Params.default w)) := by
    intro w hw
    refine branchMetric_depuncture23_eq_zero_iff (by rw [convEncode_length]; omega) ?_
    rw [puncture23_length _ (by rw [convEncode_length]; omega), convEncode_length, convEncode_length, hw]
  refine viterbi_eq_of_unique ?_ ((hagree u rfl).2 rfl) fun w hw hzero => ?_
  · rw [depuncture23_length, puncture23_length _ (by rw [convEncode_length]; omega), convEncode_length]
    omega
  · exact (puncture23_convEncodeFrom_inj u w 0 heven hw.symm ((hagree w hw).1 hzero)).symm

/-! ## Erasures -/

@[simp] theorem branchMetric_erased (n : Nat) (o : List Bool) : branchMetric (List.replicate n .erased) o = 0 := by
  rw [branchMetric, List.countP_eq_zero]
  rintro ⟨r, x⟩ h
  rw [(List.mem_replicate.1 (List.of_mem_zip h).1).2]
  simp

/-- With the default tie rule a first candidate of metric 0 is chosen whatever the others are. -/
theorem bestCandidate_smaller_cons_zero (choice : Nat → Nat) {c : Candidate} (hc : c.metric = 0) (cs : List Candidate) :
    bestCandidate .smaller choice (c :: cs) = some c := by
  obtain ⟨least, hleast⟩ := exists_leastMetric (l := (c :: cs).map (·.metric)) (by simp)
  have hzero : least = 0 := by
    have := (leastMetric_eq_some hleast).2 c.metric (by simp)
    omega
  rw [bestCandidate, hleast]
  simp [pickTied, hc, hzero]

/-- While only erasures are received, state 0 keeps metric 0 and itself as its predecessor. -/
theorem survivor_erased {m : List (Option Nat)} (hm : metricOf m 0 = some 0) (received : Trits) (t : Nat) :
    survivor Params.default received t m (List.replicate 4 .erased) 0 = some ⟨0, 0, false⟩ := by
  have hcandidates : ∃ cs, candidates Params.default m (List.replicate 4 .erased) 0 = ⟨0, 0, false⟩ :: cs := by
    have hpred : predecessors 0 = [0, 1] := by decide
    rw [candidates, hpred, List.filterMap_cons, hm]
    exact ⟨_, rfl⟩
  obtain ⟨cs, hcs⟩ := hcandidates
  rw [survivor, hcs]
  exact bestCandidate_smaller_cons_zero _ rfl cs

/-- On erasures the forward pass adds rows whose entry for state 0 is state 0 itself under the input 0. -/
theorem viterbiForward_erased (received : Trits) (n : Nat) {t : Nat} {m : List (Option Nat)}
    {rows : List (List (Option Candidate))} (hm : metricOf m 0 = some 0) :
    let final := viterbiForward Params.default received t m rows (List.replicate (4 * n) .erased)
    metricOf final.1 0 = some 0 ∧
      traceback final.2 0 [] = traceback rows 0 [] ++ List.replicate n false := by
  induction n generalizing t m rows with
  | zero => simpa [viterbiForward] using hm
  | succ n ih =>
    let row := viterbiStep Params.default received t m (List.replicate 4 .erased)
    have hsurvivor := survivor_erased hm received t
    obtain ⟨hmetric, htrace⟩ := ih (t := t + 1) (m := rowMetrics row) (rows := row :: rows)
      (by rw [metricOf_viterbiStep, hsurvivor]; rfl)
    refine ⟨hmetric, htrace.trans ?_⟩
    have hrow : traceback (row :: rows) 0 [] = traceback rows 0 [] ++ [false] := by
      rw [traceback, viterbiStep_getD, hsurvivor]
      exact traceback_acc rows 0 [false]
    rw [hrow, List.append_assoc, List.replicate_succ]
    rfl

theorem endState_default_zero {m : List (Option Nat)} (hm : metricOf m 0 = some 0) (d : Trits) (t : Nat) :
    endState Params.default d t m = 0 := by
  have hreached : ∃ cs, reachedStates m = ⟨0, 0, false⟩ :: cs := by
    have hstates : allStates = 0 :: (List.range' 1 15).map (BitVec.ofNat 4) := by decide
    rw [reachedStates, hstates, List.filterMap_cons, hm]
    exact ⟨_, rfl⟩
  obtain ⟨cs, hcs⟩ := hreached
  refine endState_of_bestCandidate (c := ⟨0, 0, false⟩) ?_
  rw [hcs]
  exact bestCandidate_smaller_cons_zero _ rfl cs

theorem viterbi_erased (n : Nat) :
    viterbi Params.default (List.replicate (4 * n) .erased) = List.replicate n false := by
  obtain ⟨hmetric, htrace⟩ := viterbiForward_erased (List.replicate (4 * n) .erased) n (t := 0) (rows := [])
    (startMetrics_eq 0)
  rw [viterbi_eq_traceback, endState_default_zero hmetric]
  exact htrace

end Sys2Proof.Machine

namespace Sys2Proof

open Machine

/-- Settles O38: in each case one input alone agrees with the received vector; on erasures every state ties, and the
default rule stays at state 0. -/
theorem viterbiInvertsCoder : Obligations.ViterbiInvertsCoder := by
  refine ⟨viterbi_convEncode, fun u heven => ⟨viterbi_depuncture23_puncture23 heven, fun hmem => ?_⟩, by decide,
    viterbi_erased⟩
  exact List.count_pos_iff.2 (true_mem_puncture23_convEncode u heven hmem)

end Sys2Proof
end

section
/-! The decode chain on a block of the reference transmitter (spec/42_splitter.md R75, R77): each stage undoes its
counterpart, and the tail bits do not enter the CRC register. -/

namespace Sys2Proof.Machine

theorem length_foldl_set {α : Type} (f : Nat → Nat) (g : Nat → α) (l : List Nat) (y : List α) :
    (l.foldl (fun y i => y.set (f i) (g i)) y).length = y.length := by
  induction l generalizing y with
  | nil => rfl
  | cons i l ih => exact (ih _).trans List.length_set

@[simp] theorem interleave_length (P : Params) (x : Bits) (k a : Nat) : (interleave P x k a).length = k :=
  (length_foldl_set ..).trans List.length_replicate

@[simp] theorem fcs_length (x : Bits) : (fcs x).length = 16 := by simp [fcs]

/-- The information bits with their frame check sequence and the four tail bits: what the transmitter codes (R73). -/
def blockInput (info : Bits) : Bits := info ++ fcs info ++ [false, false, false, false]

@[simp] theorem blockInput_length (info : Bits) : (blockInput info).length = info.length + 20 := by
  simp [blockInput]

theorem slice_blockInput (info : Bits) : slice (blockInput info) 0 info.length = info := by
  simp [slice, blockInput]

/-- The tail lies behind the checked length, and in front of it stands the right frame check sequence. -/
theorem crc16Check_blockInput (info : Bits) : crc16Check (blockInput info) (info.length + 16) = true := by
  have hfcs : crc16Check (info ++ fcs info) (info.length + 16) = true :=
    (crc16Check_append_iff info (fcs_length info)).2 rfl
  have htake : (blockInput info).take (info.length + 16) = (info ++ fcs info).take (info.length + 16) :=
    List.take_append_of_le_length (by simp)
  rwa [crc16Check, crcReg, htake]

/-- Descrambling and deinterleaving give back the vector that was interleaved and scrambled (R61, R63). -/
theorem deinterleave_descramble_transmitted (P : Params) {p : Bits} {k a : Nat} (seed : Word32) (hlen : p.length = k)
    (hgcd : Nat.gcd a k = 1) :
    deinterleave P (descramble P (descramble P (interleave P p k a) seed) seed) k a = p := by
  rw [descramble_descramble]
  exact deinterleaveInvertsInterleave P p k a hlen hgcd

/-- The default classes: two coded bits leave three transmitted ones, and the CRC covers the information and its frame
check sequence (R75). -/
theorem defaultClass_shape :
    ∀ c ∈ [bschClass, halfClass Params.default, fullClass Params.default],
      c.infoLen % 2 = 0 ∧ c.k = 3 * ((c.infoLen + 20) / 2) ∧ c.crcLen = c.infoLen + 16 ∧ Nat.gcd c.a c.k = 1 := by
  decide

theorem transmitBlock_length (P : Params) (info : Bits) (seed : Word32) (c : CodeClass) :
    (transmitBlock P info seed c).length = c.k := by
  rw [transmitBlock, descramble_length, interleave_length]

/-- The decode chain gives back what the transmitter codes. -/
theorem decodeChain_transmitBlock {c : CodeClass} {info : Bits} (seed : Word32) (heven : info.length % 2 = 0)
    (hk : c.k = 3 * ((info.length + 20) / 2)) (hgcd : Nat.gcd c.a c.k = 1) :
    decodeChain Params.default (transmitBlock Params.default info seed c) seed c = blockInput info := by
  have hcode : (convEncode Params.default (blockInput info)).length = 4 * (info.length + 20) := by simp
  have hpunctured : (puncture23 Params.default (convEncode Params.default (blockInput info))).length = c.k := by
    rw [puncture23_length _ (by omega), hcode]
    omega
  calc decodeChain Params.default (transmitBlock Params.default info seed c) seed c
      = viterbi Params.default (depuncture23 Params.default
          (puncture23 Params.default (convEncode Params.default (blockInput info)))) :=
        congrArg (fun p => viterbi Params.default (depuncture23 Params.default p))
          (deinterleave_descramble_transmitted Params.default seed hpunctured hgcd)
    _ = blockInput info := viterbi_depuncture23_puncture23 (by rw [blockInput_length]; omega)

end Sys2Proof.Machine

namespace Sys2Proof

open Machine

/-- Settles O40: the chain gives back the coder's input, whose frame check sequence passes and whose front is the
information. -/
theorem decodeBlockInvertsTransmit : Obligations.DecodeBlockInvertsTransmit := by
  intro c info seed hc hinfo
  obtain ⟨heven, hk, hcrc, hgcd⟩ := defaultClass_shape c hc
  rw [← hinfo] at heven hk hcrc
  refine ⟨transmitBlock_length _ info seed c, ?_⟩
  rw [decodeBlock, decodeChain_transmitBlock seed heven hk hgcd, hcrc, crc16Check_blockInput, ← hinfo,
    slice_blockInput]

end Sys2Proof
end

section
/-! The splitting of a burst (spec/42_splitter.md R80 to R85): each routine under every environment as an equation, then
where the environment writes nothing, and SPLIT as a command. -/

open Sys2Proof.Spec

namespace Sys2Proof.Machine

/-! ## The routines under every environment (R82 to R84) -/

theorem splitBurst_eq (P : Params) (ty : BurstType) (v : Bits) (b : Block) :
    splitBurst P ty v b = { splitBlocks P ty v b with stolen2 := false } := rfl

/-- R82: the CHAN.USAGE that stands after the AACH's delivery routes the full slot. -/
theorem splitNdb_eq (P : Params) (v : Bits) (b : Block) :
    splitNdb P v b =
      let b1 := deliver P .aach ((descramble P (extract P.layout.ndBbk v) b.cell.scode).take 14) b
      let x := extract P.layout.ndBkn1 v ++ extract P.layout.ndBkn2 v
      if b1.chan.usage then { b1 with outq := b1.outq ++ [tchRecord P b1.time (descramble P x b1.cell.scode)] }
      else afterBlock P .schF (decodeBlock P x b1.cell.scode (fullClass P)) b1 := rfl

/-- The second half slot of an NDB_SF: unstolen traffic, or a block to decode (R83). -/
def secondHalf (P : Params) (x : Bits) (b : Block) : Block :=
  if b.chan.usage && !b.stolen2 then unstolenHalf P x b
  else afterBlock P (halfSlotChannel b) (decodeBlock P x b.cell.scode (halfClass P)) b

/-- R83: each half is descrambled and routed by the state that stands when it is reached. -/
theorem splitSf_eq (P : Params) (v : Bits) (b : Block) :
    splitSf P v b =
      let b1 := deliver P .aach ((descramble P (extract P.layout.ndBbk v) b.cell.scode).take 14) b
      let b2 := afterBlock P (halfSlotChannel b1)
        (decodeBlock P (extract P.layout.ndBkn1 v) b1.cell.scode (halfClass P)) b1
      secondHalf P (extract P.layout.ndBkn2 v) b2 := rfl

section

variable {P : Params} {b : Block} (x : Bits)

theorem secondHalf_of_stolen (husage : b.chan.usage = true) (hstolen : b.stolen2 = true) :
    secondHalf P x b = afterBlock P .stch (decodeBlock P x b.cell.scode (halfClass P)) b := by
  simp [secondHalf, halfSlotChannel, husage, hstolen]

theorem secondHalf_of_signalling (husage : b.chan.usage = false) :
    secondHalf P x b = afterBlock P .schHd (decodeBlock P x b.cell.scode (halfClass P)) b := by
  simp [secondHalf, halfSlotChannel, husage]

theorem secondHalf_of_unstolen (husage : b.chan.usage = true) (hstolen : b.stolen2 = false) :
    secondHalf P x b = unstolenHalf P x b := by
  simp [secondHalf, husage, hstolen]

theorem unstolenHalf_of_drop (hP : P.sfUnstolen = .drop) :
    unstolenHalf P x b = { b with outq := b.outq ++ [.evt .bkn2Dropped b.time] } := by
  rw [unstolenHalf, hP]
  rfl

theorem unstolenHalf_of_tchHalf (hP : P.sfUnstolen = .tchHalf) :
    unstolenHalf P x b = deliver P .tchHalf (descramble P x b.cell.scode) b := by
  rw [unstolenHalf, hP]

end

/-! ## Where the environment writes nothing -/

/-- The records of the second half slot of an NDB_SF (R83). -/
def secondHalfRecords (P : Params) (x : Bits) (b : Block) : List Record :=
  if b.chan.usage = true ∧ b.stolen2 = false then
    match P.sfUnstolen with
    | .drop => [.evt .bkn2Dropped b.time]
    | .tchHalf => [.dlv .tchHalf b.time (descramble P x b.cell.scode)]
  else delivered (halfSlotChannel b) b.time (decodeBlock P x b.cell.scode (halfClass P))

section

variable {P : Params} (hnull : P.env = .null)

include hnull

theorem deliver_of_null (ch : Channel) (bits : Bits) (b : Block) :
    deliver P ch bits b = { b with outq := b.outq ++ [.dlv ch b.time bits] } := by
  simp [deliver, runEnv, envWrites, hnull, Block.emit]

theorem afterBlock_of_null (ch : Channel) (r : Bool × Bits) (b : Block) :
    afterBlock P ch r b = { b with outq := b.outq ++ delivered ch b.time r } := by
  cases h : r.1 <;> simp [afterBlock, delivered, h, deliver_of_null hnull]

theorem splitSb_of_null (v : Bits) (b : Block) :
    splitSb P v b = { b with
      outq := b.outq ++ delivered .bsch b.time (decodeBlock P (extract P.layout.sbBkn1 v) 0x00000003 bschClass) ++
        [.dlv .aach b.time ((descramble P (extract P.layout.sbBbk v) b.cell.scode).take 14)] ++
        delivered (SbBkn2Channel.channel P.sbBkn2Ch) b.time
          (decodeBlock P (extract P.layout.sbBkn2 v) b.cell.scode (halfClass P)) } := by
  simp only [splitSb_eq, afterBlock_of_null hnull, deliver_of_null hnull]

theorem splitNdb_of_null (v : Bits) (b : Block) :
    let x := extract P.layout.ndBkn1 v ++ extract P.layout.ndBkn2 v
    splitNdb P v b = { b with
      outq := b.outq ++ [.dlv .aach b.time ((descramble P (extract P.layout.ndBbk v) b.cell.scode).take 14)] ++
        if b.chan.usage then [tchRecord P b.time (descramble P x b.cell.scode)]
        else delivered .schF b.time (decodeBlock P x b.cell.scode (fullClass P)) } := by
  simp only [splitNdb_eq, afterBlock_of_null hnull, deliver_of_null hnull]
  split <;> rfl

theorem secondHalf_of_null (x : Bits) (b : Block) :
    secondHalf P x b = { b with outq := b.outq ++ secondHalfRecords P x b } := by
  by_cases h : b.chan.usage = true ∧ b.stolen2 = false
  · rw [secondHalf_of_unstolen x h.1 h.2, secondHalfRecords, if_pos h]
    cases hP : P.sfUnstolen with
    | drop => exact unstolenHalf_of_drop x hP
    | tchHalf => rw [unstolenHalf_of_tchHalf x hP, deliver_of_null hnull]
  · rw [secondHalf, if_neg (by simpa using h), secondHalfRecords, if_neg h, afterBlock_of_null hnull]

theorem splitSf_of_null (v : Bits) (b : Block) :
    splitSf P v b = { b with
      outq := b.outq ++ [.dlv .aach b.time ((descramble P (extract P.layout.ndBbk v) b.cell.scode).take 14)] ++
        delivered (halfSlotChannel b) b.time
          (decodeBlock P (extract P.layout.ndBkn1 v) b.cell.scode (halfClass P)) ++
        secondHalfRecords P (extract P.layout.ndBkn2 v) b } := by
  simp only [splitSf_eq, secondHalf_of_null hnull, afterBlock_of_null hnull, deliver_of_null hnull]
  rfl

end

/-! ## The default layout (R74) -/

theorem extract_singleton (r : Nat × Nat) (v : Bits) : extract [r] v = slice v r.1 r.2 := List.append_nil _

theorem extract_pair (q r : Nat × Nat) (v : Bits) : extract [q, r] v = slice v q.1 q.2 ++ slice v r.1 r.2 :=
  congrArg (slice v q.1 q.2 ++ ·) (extract_singleton r v)

section

variable {L : Layout} (hlayout : L = Params.default.layout) (v : Bits)

include hlayout

theorem extract_sb_of_default :
    extract L.sbBkn1 v = slice v 94 214 ∧ extract L.sbBbk v = slice v 252 282 ∧
      extract L.sbBkn2 v = slice v 282 498 := by
  subst hlayout
  exact ⟨extract_singleton .., extract_singleton .., extract_singleton ..⟩

theorem extract_nd_of_default :
    extract L.ndBbk v = slice v 230 244 ++ slice v 266 282 ∧ extract L.ndBkn1 v = slice v 14 230 ∧
      extract L.ndBkn2 v = slice v 282 498 := by
  subst hlayout
  exact ⟨extract_pair .., extract_singleton .., extract_singleton ..⟩

end

/-! ## SPLIT as a command (R85) -/

theorem burstTypeOf_code (t : BurstType) : burstTypeOf t.code = some t := by cases t <;> decide

theorem burstTypeOf_of_lt {ty : Byte} (h : 2 < ty.toNat) : burstTypeOf ty = none := by
  revert ty; decide

section

variable {s : State} (hopen : s.block.closed = false)

include hopen

theorem exec_split_of_badType {ty : Byte} (hty : 2 < ty.toNat) (v : Bits) :
    exec (.split ty (bitsBytes v)) s = .next { s with responses := s.responses ++ [⟨.badParam, []⟩] } := by
  refine exec_of_error ((unlessClosed_open hopen _).trans ((withBits_bitsBytes v _).trans ?_))
  rw [burstTypeOf_of_lt hty]

theorem exec_split (t : BurstType) (v : Bits) :
    exec (.split t.code (bitsBytes v)) s = .next { s with
      block := { splitBlocks s.params t v s.block with stolen2 := false }
      responses := s.responses ++ [⟨.ok, []⟩] } := by
  refine exec_of_ok ((unlessClosed_open hopen _).trans ((withBits_bitsBytes v _).trans ?_))
  rw [burstTypeOf_code]
  rfl

end

end Sys2Proof.Machine

namespace Sys2Proof

open Machine

/-- Settles O23: past CLOSED and the element check, the stated type alone selects the fault or the routine. -/
theorem splitCommand : Obligations.SplitCommand := by
  intro ty d s hlen
  refine ⟨rfl, by simp [encode, Instr.operandBytes, hlen], fun hclosed => exec_of_closed hclosed id,
    fun hopen hbad => exec_of_error ((unlessClosed_open hopen _).trans (withBits_of_bad hbad _)), ?_⟩
  rintro hopen v rfl
  refine ⟨fun hty => exec_split_of_badType hopen hty v, ?_⟩
  rintro t rfl
  exact exec_split hopen t v

/-- Settles O50: the routing of an NDB and of each half of an NDB_SF, read off the equations of the two routines. -/
theorem aachDecidesSameSlot : Obligations.AachDecidesSameSlot := by
  intro P v b b1
  constructor
  · intro x y soft
    rw [splitBurst_eq, splitBlocks, splitNdb_eq]
    constructor <;> intro husage
    · rw [if_pos husage]
      rfl
    · rw [if_neg (by simpa using husage)]
  · intro b2 x2
    have hsf : splitSf P v b = secondHalf P x2 b2 := splitSf_eq P v b
    rw [splitBurst_eq, splitBlocks, hsf]
    refine ⟨fun husage hstolen => ?_, fun husage => ?_, fun husage hstolen hP => ?_, fun husage hstolen hP => ?_⟩
    · rw [secondHalf_of_stolen x2 husage hstolen]
    · rw [secondHalf_of_signalling x2 husage]
    · rw [secondHalf_of_unstolen x2 husage hstolen, unstolenHalf_of_drop x2 hP]
    · rw [secondHalf_of_unstolen x2 husage hstolen, unstolenHalf_of_tchHalf x2 hP]

/-- Settles O45: SPLIT of an SB under ENV_NULL, its blocks cut by the default layout. -/
theorem sbRecords : Obligations.SbRecords := by
  intro s v hopen hnull hlayout _ P b
  refine (exec_split hopen .sb v).trans ?_
  obtain ⟨hbkn1, hbbk, hbkn2⟩ := extract_sb_of_default hlayout v
  rw [splitBlocks, splitSb_of_null hnull, hbkn1, hbbk, hbkn2]
  rfl

/-- Settles O46: SPLIT of an NDB under ENV_NULL, its blocks cut by the default layout. -/
theorem ndbRecords : Obligations.NdbRecords := by
  intro s v hopen hnull hlayout _ P b x y soft
  refine (exec_split hopen .ndb v).trans ?_
  obtain ⟨hbbk, hbkn1, hbkn2⟩ := extract_nd_of_default hlayout v
  rw [splitBlocks, splitNdb_of_null hnull, hbbk, hbkn1, hbkn2]
  rfl

/-- Settles O47: SPLIT of an NDB_SF under ENV_NULL, its blocks cut by the default layout. -/
theorem sfRecords : Obligations.SfRecords := by
  intro s v hopen hnull hlayout _ P b ch
  refine (exec_split hopen .ndbSf v).trans ?_
  obtain ⟨hbbk, hbkn1, hbkn2⟩ := extract_nd_of_default hlayout v
  rw [splitBlocks, splitSf_of_null hnull, hbbk, hbkn1, hbkn2]
  rfl

end Sys2Proof
end

section
/-! The host's state writes and the read-back (spec/43_host.md R87 to R94): the scrambling code as a number and by its
fields, what each write's field check says and what the write leaves, and the snapshot of RD_STATE. -/

namespace Sys2Proof.Machine

/-! ## The scrambling code (R87) -/

theorem or_mul_two_pow_eq_add {a i : Nat} (h : a < 2 ^ i) (b : Nat) : a ||| b * 2 ^ i = a + b * 2 ^ i := by
  rw [Nat.or_comm, Nat.mul_comm, ← Nat.two_pow_add_eq_or_of_lt h, Nat.add_comm]

/-- The shifted fields of R87 do not overlap, so each `or` is a sum. -/
theorem scode_toNat (cc : BitVec 6) (mcc : BitVec 10) (mnc : BitVec 14) :
    (scode cc mcc mnc).toNat = (cc.toNat + mnc.toNat * 2 ^ 6 + mcc.toNat * 2 ^ 20) * 2 ^ 2 + 3 := by
  have hcc := cc.isLt
  have hmcc := mcc.isLt
  have hmnc := mnc.isLt
  have hones : (3 : Word32).toNat = 3 := rfl
  simp (disch := omega) only [scode, BitVec.toNat_or, BitVec.toNat_shiftLeft, BitVec.toNat_setWidth,
    Nat.shiftLeft_eq, Nat.mod_eq_of_lt, or_mul_two_pow_eq_add]
  rw [hones, Nat.or_comm, or_mul_two_pow_eq_add (by decide), Nat.add_comm]

/-- A field of a word is a digit of its number. -/
theorem extractLsb'_eq_of_toNat {w start len : Nat} {x : BitVec w} {y : BitVec len}
    (h : x.toNat / 2 ^ start % 2 ^ len = y.toNat) : x.extractLsb' start len = y :=
  BitVec.eq_of_toNat_eq (by rw [BitVec.extractLsb'_toNat, Nat.shiftRight_eq_div_pow, h])

theorem scode_fields (cc : BitVec 6) (mcc : BitVec 10) (mnc : BitVec 14) :
    (scode cc mcc mnc).extractLsb' 22 10 = mcc ∧ (scode cc mcc mnc).extractLsb' 8 14 = mnc ∧
      (scode cc mcc mnc).extractLsb' 2 6 = cc ∧ (scode cc mcc mnc).extractLsb' 0 2 = 3 := by
  have hcc := cc.isLt
  have hmcc := mcc.isLt
  have hmnc := mnc.isLt
  have hones : (3 : BitVec 2).toNat = 3 := rfl
  refine ⟨?_, ?_, ?_, ?_⟩ <;> refine extractLsb'_eq_of_toNat ?_ <;> rw [scode_toNat] <;> omega

/-! ## The field checks (R88 to R93) -/

theorem fieldsFit_cell_iff {cc : Byte} {mcc mnc : Word16} :
    (Write.cell cc mcc mnc).fieldsFit = true ↔ cc.toNat ≤ 63 ∧ mcc.toNat ≤ 1023 ∧ mnc.toNat ≤ 16383 := by
  simp [Write.fieldsFit, and_assoc]

theorem fieldsFit_time_iff {tn fn mn : Byte} :
    (Write.time tn fn mn).fieldsFit = true ↔
      (1 ≤ tn.toNat ∧ tn.toNat ≤ 4) ∧ (1 ≤ fn.toNat ∧ fn.toNat ≤ 18) ∧ 1 ≤ mn.toNat ∧ mn.toNat ≤ 60 :=
  timeInRange_iff

theorem fieldsFit_usage_iff {usage marker : Byte} :
    (Write.usage usage marker).fieldsFit = true ↔ usage.toNat ≤ 1 ∧ marker.toNat ≤ 63 := by
  simp [Write.fieldsFit]

theorem fieldsFit_stolen2_iff {flag : Byte} : (Write.stolen2 flag).fieldsFit = true ↔ flag.toNat ≤ 1 := by
  simp [Write.fieldsFit]

/-! ## The write commands -/

theorem writeCommand_of_fits {w : Write} {b : Block} (hopen : b.closed = false) (hfit : w.fieldsFit = true) :
    writeCommand w b = .ok (w.apply b, []) :=
  (unlessClosed_open hopen _).trans (if_pos hfit)

theorem writeCommand_of_misfit {w : Write} {b : Block} (hopen : b.closed = false) (hfit : ¬ w.fieldsFit = true) :
    writeCommand w b = .error .badField :=
  (unlessClosed_open hopen _).trans (if_neg hfit)

@[simp] theorem bitByte_bne_zero (x : Bool) : (bitByte x != 0#8) = x := by cases x <;> rfl

theorem bitByte_toNat_le (x : Bool) : (bitByte x).toNat ≤ 1 := by cases x <;> decide

/-- The three fields of WR_CELL, cut to their widths, and the scrambling code as the number R87 gives (R88). -/
theorem apply_cell (b : Block) (cc : Byte) (mcc mnc : Word16) :
    let c := cc.setWidth 6
    let m := mcc.setWidth 10
    let n := mnc.setWidth 14
    Write.apply b (.cell cc mcc mnc) = { b with cell := { b.cell with
      cc := c, mcc := m, mnc := n
      scode := BitVec.ofNat 32 ((c.toNat + n.toNat * 2 ^ 6 + m.toNat * 2 ^ 20) * 2 ^ 2 + 3) } } := by
  intro c m n
  rw [← scode_toNat, BitVec.ofNat_toNat, BitVec.setWidth_eq]
  rfl

theorem apply_usage (b : Block) (u : Bool) (marker : Byte) :
    Write.apply b (.usage (bitByte u) marker) =
      { b with chan := { b.chan with usage := u, marker := marker.setWidth 6 } } := by
  simp [Write.apply]

theorem apply_stolen2 (b : Block) (x : Bool) : Write.apply b (.stolen2 (bitByte x)) = { b with stolen2 := x } := by
  simp [Write.apply]

theorem setWidth_toNat_of_lt {v w : Nat} {x : BitVec v} (h : x.toNat < 2 ^ w) : (x.setWidth w).toNat = x.toNat := by
  rw [BitVec.toNat_setWidth, Nat.mod_eq_of_lt h]

/-! ## The read-back (R94) -/

theorem snapshot_eq (b : Block) :
    snapshot b = [if b.sync then 1 else 0] ++ u16Nat b.cnt ++
      [BitVec.ofNat 8 b.time.tn, BitVec.ofNat 8 b.time.fn, BitVec.ofNat 8 b.time.mn] ++
      [BitVec.ofNat 8 b.cell.cc.toNat] ++ u16Nat b.cell.mcc.toNat ++ u16Nat b.cell.mnc.toNat ++
      u32Bytes b.cell.scode ++ u32Bytes b.cell.freq ++
      [if b.chan.usage then 1 else 0, BitVec.ofNat 8 b.chan.marker.toNat, b.chan.lch] ++
      [if b.stolen2 then 1 else 0, if b.closed then 1 else 0] ++
      u16Nat b.buf.length ++ bitsBytes b.buf := by
  simp [snapshot, bitByte, Time.bytes, u8Nat, countedVec_bitsBytes, u16Nat]

theorem snapshot_length (b : Block) : (snapshot b).length = 26 + b.buf.length := by
  simp [snapshot, Time.bytes, u8Nat]
  omega

end Sys2Proof.Machine

namespace Sys2Proof

open Machine

/-- Settles O43: the code is the concatenation of its fields, so its number is their sum by places. -/
theorem scodeFields : Obligations.ScodeFields :=
  fun cc mcc mnc => ⟨scode_toNat cc mcc mnc, scode_fields cc mcc mnc⟩

/-- Settles O24: fields in their bounds survive the cut to their widths. -/
theorem wrCellCommand : Obligations.WrCellCommand := by
  intro cc mcc mnc s
  refine ⟨rfl, fun hclosed => exec_of_closed hclosed id, fun hopen hbad => ?_, fun hopen hcc hmcc hmnc => ?_⟩
  · exact exec_of_error (writeCommand_of_misfit hopen (by rw [fieldsFit_cell_iff]; omega))
  · have hc : (cc.setWidth 6).toNat = cc.toNat := setWidth_toNat_of_lt (by omega)
    have hm : (mcc.setWidth 10).toNat = mcc.toNat := setWidth_toNat_of_lt (by omega)
    have hn : (mnc.setWidth 14).toNat = mnc.toNat := setWidth_toNat_of_lt (by omega)
    have hfit := fieldsFit_cell_iff.2 ⟨hcc, hmcc, hmnc⟩
    refine ⟨_, _, _, hc, hm, hn, exec_of_ok ((writeCommand_of_fits hopen hfit).trans ?_)⟩
    rw [apply_cell, hc, hm, hn]

/-- Settles O25: the field check is R90's three ranges. -/
theorem wrTimeCommand : Obligations.WrTimeCommand := by
  intro tn fn mn s
  refine ⟨rfl, fun hclosed => exec_of_closed hclosed id, fun hopen hbad => ?_,
    fun hopen htn htn' hfn hfn' hmn hmn' => ?_⟩
  · exact exec_of_error (writeCommand_of_misfit hopen (by rw [fieldsFit_time_iff]; tauto))
  · exact exec_of_ok (writeCommand_of_fits hopen (fieldsFit_time_iff.2 ⟨⟨htn, htn'⟩, ⟨hfn, hfn'⟩, hmn, hmn'⟩))

/-- Settles O26: the usage is a bit, and a marker of at most 63 survives the cut to six bits. -/
theorem wrUsageCommand : Obligations.WrUsageCommand := by
  intro usage marker s
  refine ⟨rfl, fun hclosed => exec_of_closed hclosed id, fun hopen hbad => ?_, ?_⟩
  · exact exec_of_error (writeCommand_of_misfit hopen (by rw [fieldsFit_usage_iff]; omega))
  · rintro hopen u rfl hmarker
    have hfit := fieldsFit_usage_iff.2 ⟨bitByte_toNat_le u, hmarker⟩
    refine ⟨marker.setWidth 6, setWidth_toNat_of_lt (by omega), exec_of_ok ((writeCommand_of_fits hopen hfit).trans ?_)⟩
    rw [apply_usage]

/-- Settles O27: the flag is a bit, whatever STOLEN2 was. -/
theorem wrStolen2Command : Obligations.WrStolen2Command := by
  intro flag s
  refine ⟨rfl, fun hclosed => exec_of_closed hclosed id, fun hopen hbad => ?_, ?_⟩
  · exact exec_of_error (writeCommand_of_misfit hopen (by rw [fieldsFit_stolen2_iff]; omega))
  · rintro hopen x rfl
    refine exec_of_ok ((writeCommand_of_fits hopen (fieldsFit_stolen2_iff.2 (bitByte_toNat_le x))).trans ?_)
    rw [apply_stolen2]

/-- Settles O28: every value fits. -/
theorem wrFreqCommand : Obligations.WrFreqCommand := fun _ _ =>
  ⟨rfl, fun hclosed => exec_of_closed hclosed id, fun hopen => exec_of_ok (writeCommand_of_fits hopen rfl)⟩

/-- Settles O29: every value fits. -/
theorem wrLchCommand : Obligations.WrLchCommand := fun _ _ =>
  ⟨rfl, fun hclosed => exec_of_closed hclosed id, fun hopen => exec_of_ok (writeCommand_of_fits hopen rfl)⟩

/-- Settles O30: the payload is the snapshot, with no check before it. -/
theorem rdStateCommand : Obligations.RdStateCommand :=
  fun s => ⟨rfl, snapshot s.block, exec_of_ok rfl, snapshot_length s.block, snapshot_eq s.block⟩

end Sys2Proof
end

section
/-! The environment's part in a delivery (spec/43_host.md R95, R96; spec/42_splitter.md R79): what any environment can
do, what ENV_REF does with each channel, and what an SB's BSCH delivery then decides for the burst's later blocks. -/

open Sys2Proof.Spec

namespace Sys2Proof.Machine

/-! ## Any environment (R95) -/

/-- A block's OUTQ grew by rejection events alone. -/
def OnlyRejections (b b' : Block) : Prop :=
  ∃ events, b'.outq = b.outq ++ events ∧ ∀ e ∈ events, ∃ t, e = Record.evt .envWriteRejected t

theorem OnlyRejections.of_outq_eq {b b' : Block} (h : b'.outq = b.outq) : OnlyRejections b b' :=
  ⟨[], by simp [h], nofun⟩

theorem OnlyRejections.trans {a b c : Block} (h : OnlyRejections a b) (k : OnlyRejections b c) :
    OnlyRejections a c := by
  obtain ⟨xs, hxs, hxs'⟩ := h
  obtain ⟨ys, hys, hys'⟩ := k
  refine ⟨xs ++ ys, by rw [hys, hxs, List.append_assoc], fun e he => ?_⟩
  exact (List.mem_append.1 he).elim (hxs' e) (hys' e)

theorem applyEnvWrite_of_fits {b : Block} {w : Write} (h : w.fieldsFit = true) : applyEnvWrite b w = w.apply b :=
  if_pos h

theorem applyEnvWrite_of_misfit {b : Block} {w : Write} (h : ¬ w.fieldsFit = true) :
    applyEnvWrite b w = { b with outq := b.outq ++ [.evt .envWriteRejected b.time] } :=
  if_neg h

theorem applyEnvWrite_onlyRejections (b : Block) (w : Write) : OnlyRejections b (applyEnvWrite b w) := by
  by_cases hfit : w.fieldsFit = true
  · rw [applyEnvWrite_of_fits hfit]
    exact .of_outq_eq (Write.apply_outq b w)
  · rw [applyEnvWrite_of_misfit hfit]
    exact ⟨_, rfl, by simp⟩

theorem foldl_applyEnvWrite_onlyRejections (ws : List Write) (b : Block) :
    OnlyRejections b (ws.foldl applyEnvWrite b) := by
  induction ws generalizing b with
  | nil => exact .of_outq_eq rfl
  | cons w ws ih => exact (applyEnvWrite_onlyRejections b w).trans (ih _)

/-- A delivery emits its record, then makes the environment's writes one after another (R79, R95). -/
theorem deliver_eq_foldl (P : Params) (ch : Channel) (bits : Bits) (b : Block) :
    let r := Record.dlv ch b.time bits
    deliver P ch bits b = (envWrites P r (b.emit r)).foldl applyEnvWrite (b.emit r) := rfl

theorem deliver_outq (P : Params) (ch : Channel) (bits : Bits) (b : Block) :
    ∃ events, (deliver P ch bits b).outq = b.outq ++ .dlv ch b.time bits :: events ∧
      ∀ e ∈ events, ∃ t, e = Record.evt .envWriteRejected t := by
  obtain ⟨events, houtq, hevents⟩ := foldl_applyEnvWrite_onlyRejections _ (b.emit (.dlv ch b.time bits))
  exact ⟨events, by rw [deliver_eq_foldl, houtq]; simp, hevents⟩

/-! ## ENV_REF (R96) -/

theorem intOf_append_singleton (v : Bits) (x : Bool) : intOf (v ++ [x]) = 2 * intOf v + x.toNat := by
  simp [intOf]

theorem intOf_lt (v : Bits) : intOf v < 2 ^ v.length := by
  induction v using List.reverseRecOn with
  | nil => decide
  | append_singleton v x ih =>
    have hx := x.toNat_lt
    rw [intOf_append_singleton, List.length_append, List.length_singleton, pow_succ]
    omega

/-- A field of a payload is a number of that many bits (R30). -/
theorem intOf_slice_lt (v : Bits) (i j : Nat) : intOf (slice v i j) < 2 ^ (j - i) :=
  (intOf_lt _).trans_le (Nat.pow_le_pow_right (by decide) (List.length_take_le _ _))

/-- Widening a field that fits its narrow width. -/
theorem ofNat_eq_setWidth {n v w : Nat} (hvw : v ≤ w) (hn : n < 2 ^ v) :
    BitVec.ofNat w n = (BitVec.ofNat v n).setWidth w := (BitVec.setWidth_ofNat_of_le_of_lt hvw hn).symm

theorem toNat_ofNat_slice (v : Bits) (i j : Nat) :
    (BitVec.ofNat (j - i) (intOf (slice v i j))).toNat = intOf (slice v i j) := by
  rw [BitVec.toNat_ofNat, Nat.mod_eq_of_lt (intOf_slice_lt v i j)]

/-! ### Its writes -/

theorem applyEnvWrite_usage (b : Block) (u : Bool) (m : BitVec 6) :
    applyEnvWrite b (.usage (bitByte u) (m.setWidth 8)) =
      { b with chan := { b.chan with usage := u, marker := m } } := by
  have hm : (m.setWidth 8).toNat ≤ 63 := by
    rw [BitVec.toNat_setWidth_of_le (by decide)]
    omega
  rw [applyEnvWrite_of_fits (fieldsFit_usage_iff.2 ⟨bitByte_toNat_le u, hm⟩), apply_usage,
    BitVec.setWidth_setWidth_of_le _ (by decide), BitVec.setWidth_eq]

theorem applyEnvWrite_cell (b : Block) (cc : BitVec 6) (mcc : BitVec 10) (mnc : BitVec 14) :
    applyEnvWrite b (.cell (cc.setWidth 8) (mcc.setWidth 16) (mnc.setWidth 16)) =
      { b with cell := ⟨cc, mcc, mnc, scode cc mcc mnc, b.cell.freq⟩ } := by
  have hfit : (Write.cell (cc.setWidth 8) (mcc.setWidth 16) (mnc.setWidth 16)).fieldsFit = true := by
    rw [fieldsFit_cell_iff, BitVec.toNat_setWidth_of_le (by decide), BitVec.toNat_setWidth_of_le (by decide),
      BitVec.toNat_setWidth_of_le (by decide)]
    omega
  rw [applyEnvWrite_of_fits hfit]
  simp [Write.apply, BitVec.setWidth_setWidth_of_le]

theorem applyEnvWrite_time (b : Block) {tn fn mn : Nat} (htn : tn < 256) (hfn : fn < 256) (hmn : mn < 256) :
    applyEnvWrite b (.time (BitVec.ofNat 8 tn) (BitVec.ofNat 8 fn) (BitVec.ofNat 8 mn)) =
      if timeInRange tn fn mn then { b with time := ⟨tn, fn, mn⟩ }
      else { b with outq := b.outq ++ [.evt .envWriteRejected b.time] } := by
  have hbyte {n : Nat} (h : n < 256) : (BitVec.ofNat 8 n).toNat = n := by simpa using h
  simp only [applyEnvWrite, Write.fieldsFit, Write.apply, hbyte htn, hbyte hfn, hbyte hmn]
  rfl

/-! ### The AACH -/

theorem refUsage_of_header_zero {a : Bits} (h : intOf (slice a 0 2) = 0) : refUsage a = false := by
  simp [refUsage, h]

theorem refMarker_of_header_zero {a : Bits} (h : intOf (slice a 0 2) = 0) : refMarker a = 0 := if_pos h

theorem refUsage_of_header_ne_zero {a : Bits} (h : intOf (slice a 0 2) ≠ 0) :
    refUsage a = decide (4 ≤ intOf (slice a 2 8)) := by
  simp [refUsage, h]

theorem refMarker_of_header_ne_zero {a : Bits} (h : intOf (slice a 0 2) ≠ 0) :
    refMarker a = BitVec.ofNat 6 (intOf (slice a 2 8)) := if_neg h

/-- R96's two cases of an AACH are one write: the usage and the marker that its bits stand for. -/
theorem envRef_aach (t : Time) (a : Bits) :
    envRef (.dlv .aach t a) = [.usage (bitByte (refUsage a)) ((refMarker a).setWidth 8)] := by
  by_cases h : intOf (slice a 0 2) = 0
  · rw [refUsage_of_header_zero h, refMarker_of_header_zero h]
    exact if_pos h
  · rw [refUsage_of_header_ne_zero h, refMarker_of_header_ne_zero h,
      ← ofNat_eq_setWidth (by decide) (intOf_slice_lt a 2 8)]
    simp [envRef, h, bitByte]

/-! ### The BSCH -/

/-- The colour code, MCC and MNC of a SYNC payload as CELL, its FREQ kept (R88, R96). -/
def syncCell (v : Bits) (freq : Word32) : Cell :=
  let cc := BitVec.ofNat 6 (intOf (slice v 4 10))
  let mcc := BitVec.ofNat 10 (intOf (slice v 31 41))
  let mnc := BitVec.ofNat 14 (intOf (slice v 41 55))
  ⟨cc, mcc, mnc, scode cc mcc mnc, freq⟩

/-- The TIME of a SYNC payload, in range or not (R96). -/
def syncTime (v : Bits) : Time := ⟨intOf (slice v 10 12) + 1, intOf (slice v 12 17), intOf (slice v 17 23)⟩

/-- The two bits of TN stand for 1 to 4, so only FN and MN can be out of range. -/
theorem syncTime_inRange_iff (v : Bits) :
    timeInRange (syncTime v).tn (syncTime v).fn (syncTime v).mn = true ↔
      1 ≤ (syncTime v).fn ∧ (syncTime v).fn ≤ 18 ∧ 1 ≤ (syncTime v).mn ∧ (syncTime v).mn ≤ 60 := by
  have htn := intOf_slice_lt v 10 12
  rw [timeInRange_iff]
  simp only [syncTime]
  omega

theorem applyEnvWrite_syncCell (v : Bits) (b : Block) :
    applyEnvWrite b (.cell (BitVec.ofNat 8 (intOf (slice v 4 10))) (BitVec.ofNat 16 (intOf (slice v 31 41)))
      (BitVec.ofNat 16 (intOf (slice v 41 55)))) = { b with cell := syncCell v b.cell.freq } := by
  rw [ofNat_eq_setWidth (v := 6) (by decide) (intOf_slice_lt v 4 10),
    ofNat_eq_setWidth (v := 10) (by decide) (intOf_slice_lt v 31 41),
    ofNat_eq_setWidth (v := 14) (by decide) (intOf_slice_lt v 41 55), applyEnvWrite_cell]
  rfl

theorem applyEnvWrite_syncTime (v : Bits) (b : Block) :
    applyEnvWrite b (.time (BitVec.ofNat 8 (intOf (slice v 10 12) + 1)) (BitVec.ofNat 8 (intOf (slice v 12 17)))
      (BitVec.ofNat 8 (intOf (slice v 17 23)))) =
      if timeInRange (syncTime v).tn (syncTime v).fn (syncTime v).mn then { b with time := syncTime v }
      else { b with outq := b.outq ++ [.evt .envWriteRejected b.time] } := by
  have htn := intOf_slice_lt v 10 12
  have hfn := intOf_slice_lt v 12 17
  have hmn := intOf_slice_lt v 17 23
  exact applyEnvWrite_time b (by omega) (by omega) (by omega)

/-! ### Its deliveries -/

section

variable {P : Params} (href : P.env = .ref)

include href

theorem deliver_of_ref (ch : Channel) (v : Bits) (b : Block) :
    deliver P ch v b =
      (envRef (.dlv ch b.time v)).foldl applyEnvWrite { b with outq := b.outq ++ [.dlv ch b.time v] } := by
  simp only [deliver_eq_foldl, envWrites, href, Block.emit]

theorem deliver_aach_of_ref (a : Bits) (b : Block) : deliver P .aach a b = afterRefAach a b := by
  rw [deliver_of_ref href, envRef_aach, List.foldl_cons, applyEnvWrite_usage]
  rfl

theorem deliver_other_of_ref {ch : Channel} (haach : ch ≠ .aach) (hbsch : ch ≠ .bsch) (v : Bits) (b : Block) :
    deliver P ch v b = { b with outq := b.outq ++ [.dlv ch b.time v] } := by
  rw [deliver_of_ref href]
  cases ch with
  | aach => exact absurd rfl haach
  | bsch => exact absurd rfl hbsch
  | bnch | schHd | stch | schF | tchHalf => rfl

theorem afterBlock_other_of_ref {ch : Channel} (haach : ch ≠ .aach) (hbsch : ch ≠ .bsch) (r : Bool × Bits)
    (b : Block) : afterBlock P ch r b = { b with outq := b.outq ++ delivered ch b.time r } := by
  cases h : r.1 <;> simp [afterBlock, delivered, h, deliver_other_of_ref href haach hbsch]

/-- WR_CELL always fits; then WR_TIME is made or rejected (R96). -/
theorem deliver_bsch_of_ref (v : Bits) (b : Block) :
    deliver P .bsch v b =
      if timeInRange (syncTime v).tn (syncTime v).fn (syncTime v).mn then
        { b with cell := syncCell v b.cell.freq, time := syncTime v, outq := b.outq ++ [.dlv .bsch b.time v] }
      else
        { b with
          cell := syncCell v b.cell.freq
          outq := b.outq ++ [.dlv .bsch b.time v, .evt .envWriteRejected b.time] } := by
  rw [deliver_of_ref href]
  simp only [envRef, List.foldl_cons, List.foldl_nil, applyEnvWrite_syncCell, applyEnvWrite_syncTime,
    List.append_assoc, List.singleton_append]

theorem deliver_bsch_of_ref_cell (v : Bits) (b : Block) :
    (deliver P .bsch v b).cell = syncCell v b.cell.freq := by
  rw [deliver_bsch_of_ref href]
  split <;> rfl

/-- Once an SB's BKN1 decodes, its AACH and BKN2 are descrambled under the new SCODE and stamped with the new TIME
(R116, R119): the AACH's own reaction writes neither. -/
theorem splitSb_of_ref {burst v : Bits} {b : Block}
    (hbkn1 : decodeBlock P (extract P.layout.sbBkn1 burst) 0x00000003 bschClass = (true, v)) :
    let b' := deliver P .bsch v b
    let a := (descramble P (extract P.layout.sbBbk burst) b'.cell.scode).take 14
    splitSb P burst b = { afterRefAach a b' with
      outq := b'.outq ++ [.dlv .aach b'.time a] ++ delivered (SbBkn2Channel.channel P.sbBkn2Ch) b'.time
        (decodeBlock P (extract P.layout.sbBkn2 burst) b'.cell.scode (halfClass P)) } := by
  intro b' a
  have hbsch : afterBlock P .bsch (true, v) b = b' := rfl
  have haach : SbBkn2Channel.channel P.sbBkn2Ch ≠ .aach := by cases P.sbBkn2Ch <;> decide
  have hne : SbBkn2Channel.channel P.sbBkn2Ch ≠ .bsch := by cases P.sbBkn2Ch <;> decide
  simp only [splitSb_eq, hbkn1, hbsch, deliver_aach_of_ref href]
  exact afterBlock_other_of_ref href haach hne _ _

end

end Sys2Proof.Machine

namespace Sys2Proof

open Machine

/-- Settles O48: a delivery is its emission followed by a list of writes, each made or rejected. -/
theorem environmentReach : Obligations.EnvironmentReach := by
  intro P ch bits b r b'
  obtain ⟨hbuf, hsync, hcnt, hclosed, -, htime, hcell⟩ := deliver_delivers P ch bits b
  exact ⟨hbuf, hsync, hcnt, hclosed, deliver_outq P ch bits b, htime, hcell,
    fun hnull => deliver_of_null hnull ch bits b, deliver_eq_foldl P ch bits b⟩

/-- Settles O49: ENV_REF's writes on each channel, and for an SB what the BSCH's leave to the later blocks. -/
theorem refEnvironmentSetsCellWithinBurst : Obligations.RefEnvironmentSetsCellWithinBurst := by
  intro P b href
  refine ⟨fun a _ => ⟨deliver_aach_of_ref href a b, fun h => ?_, fun h => ?_⟩,
    fun ch v haach hbsch => deliver_other_of_ref href haach hbsch v b, ?_⟩
  · exact ⟨refUsage_of_header_zero h, refMarker_of_header_zero h⟩
  · rw [refUsage_of_header_ne_zero h, refMarker_of_header_ne_zero h, decide_eq_true_iff]
    exact ⟨Iff.rfl, toNat_ofNat_slice a 2 8⟩
  · intro v _ b' cc mcc mnc fn mn cell
    have hbsch := deliver_bsch_of_ref href v b
    have hcell : b'.cell = cell := deliver_bsch_of_ref_cell href v b
    refine ⟨toNat_ofNat_slice v 4 10, toNat_ofNat_slice v 31 41, toNat_ofNat_slice v 41 55, fun h => ?_, fun h => ?_,
      fun burst hbkn1 => ?_⟩
    · exact hbsch.trans (if_pos ((syncTime_inRange_iff v).2 h))
    · exact hbsch.trans (if_neg fun hrange => h ((syncTime_inRange_iff v).1 hrange))
    · have hsb := splitSb_of_ref href (b := b) hbkn1
      have hscode : b'.cell.scode = scode cc mcc mnc := congrArg Cell.scode hcell
      rw [← hscode]
      exact hsb

end Sys2Proof
end

section
/-! The frame of SPLIT and RX_SYMBOL (spec/10_state.md section 3, spec/43_host.md R95): what each command leaves of the
block, and CELL and CHAN where the environment writes nothing. -/

namespace Sys2Proof.Machine

/-! ## What the two commands leave -/

theorem exec_split_block {ty : Byte} {d : List Byte} {s t : State} (h : exec (.split ty d) s = .next t) :
    t.block = s.block ∨ ∃ u v, t.block = splitBurst s.params u v s.block := by
  rcases exec_eq_next h with ⟨b, p, hr, rfl⟩ | ⟨c, -, rfl⟩
  · exact .inr (splitCommand_eq_ok hr).2
  · exact .inl rfl

theorem exec_rxSymbol_block {sym : Byte} {s t : State} (h : exec (.rxSymbol sym) s = .next t) :
    t.block = s.block ∨ ∃ x, t.block = (receiveSymbol s.params x s.block).1 := by
  rcases exec_eq_next h with ⟨b, p, hr, rfl⟩ | ⟨c, -, rfl⟩
  · exact .inr (rxSymbolCommand_eq_ok hr).2
  · exact .inl rfl

/-! ## CELL and CHAN where the environment writes nothing -/

/-- CELL and CHAN are as they were. -/
def KeepsCellChan (b b' : Block) : Prop := b'.cell = b.cell ∧ b'.chan = b.chan

theorem slideBuf_keepsCellChan (P : Params) (b : Block) : KeepsCellChan b (slideBuf P b) := by
  rw [slideBuf_eq]
  split
  · split <;> exact ⟨rfl, rfl⟩
  · exact ⟨rfl, rfl⟩

section

variable {P : Params} (hnull : P.env = .null)

include hnull

theorem splitBlocks_keepsCellChan (ty : BurstType) (v : Bits) (b : Block) :
    KeepsCellChan b (splitBlocks P ty v b) := by
  cases ty with
  | sb => rw [splitBlocks, splitSb_of_null hnull]; exact ⟨rfl, rfl⟩
  | ndb => rw [splitBlocks, splitNdb_of_null hnull]; exact ⟨rfl, rfl⟩
  | ndbSf => rw [splitBlocks, splitSf_of_null hnull]; exact ⟨rfl, rfl⟩

theorem processBurst_keepsCellChan (v : Bits) (b : Block) : KeepsCellChan b (processBurst P v b) := by
  cases hty : (classifyBurst P v).type with
  | none => rw [processBurst_of_invalid b hty]; exact ⟨rfl, rfl⟩
  | some ty => rw [processBurst_of_type b hty]; exact splitBlocks_keepsCellChan hnull ty v b

theorem confirmBurst_keepsCellChan (b : Block) : KeepsCellChan b (confirmBurst P b) := by
  rw [confirmBurst_eq]
  exact processBurst_keepsCellChan hnull b.buf _

theorem coastBurst_keepsCellChan (b : Block) : KeepsCellChan b (coastBurst P b) := by
  have hcoasted : KeepsCellChan b (coasted P b) := processBurst_keepsCellChan hnull b.buf _
  rw [coastBurst_eq]
  split <;> exact hcoasted

theorem receiveSymbol_keepsCellChan (x : Bool) (b : Block) : KeepsCellChan b (receiveSymbol P x b).1 :=
  receiveSymbol_induction (fun _ => ⟨rfl, rfl⟩) (confirmBurst_keepsCellChan hnull _)
    (fun _ _ => coastBurst_keepsCellChan hnull _) (fun _ _ => slideBuf_keepsCellChan P _)

end

end Sys2Proof.Machine

namespace Sys2Proof

open Machine

/-- Settles O53: each command leaves the block as it was, or as the splitter or the reception of a symbol leaves it. -/
theorem burstCommandFrame : Obligations.BurstCommandFrame := by
  refine fun s t => ⟨fun ty d h => ?_, fun sym h => ?_⟩
  · have hdelivers : Delivers s.block t.block := by
      rcases exec_split_block h with hsame | ⟨u, v, hsplit⟩
      · exact hsame ▸ .refl s.block
      · exact hsplit ▸ splitBurst_delivers s.params u v s.block
    exact ⟨hdelivers.buf, hdelivers.sync, hdelivers.cnt, hdelivers.closed, hdelivers.outq⟩
  · rcases exec_rxSymbol_block h with hsame | ⟨x, hreceive⟩
    · simp [hsame]
    · have hkeeps := receiveSymbol_keeps s.params x s.block
      rw [hreceive]
      refine ⟨hkeeps.closed, hkeeps.outq, fun hlen => ?_, fun hnull => receiveSymbol_keepsCellChan hnull x s.block⟩
      have hshort : (s.block.counted s.params x).buf.length < 510 := by simp [Block.counted]; omega
      rw [receiveSymbol_of_short hshort]
      exact ⟨rfl, rfl, rfl, rfl, rfl⟩

end Sys2Proof
end

section
/-! The answer of every command (spec/60_exceptions.md R97 to R99): one response, its status the first cause that applies in
R97's order; and the byte layouts of the records (spec/30_encoding.md R43). -/

open Sys2Proof.Spec

namespace Sys2Proof.Machine

/-! ## One response (R98) -/

/-- The status a result is answered with. -/
def statusOf : Result → Status
  | .ok _ => .ok
  | .error c => c

theorem exec_eq_respond (i : Instr) (s : State) : ∃ (b : Block) (r : Response),
    exec i s = .next { s with block := b, responses := s.responses ++ [r] } ∧
    r.status = statusOf (resultOf s.params i s.block) ∧ (r.status ≠ .ok → b = s.block ∧ r.payload = []) := by
  cases h : resultOf s.params i s.block with
  | ok x => exact ⟨x.1, ⟨.ok, x.2⟩, exec_of_ok h, rfl, fun hne => absurd rfl hne⟩
  | error c => exact ⟨s.block, ⟨c, []⟩, exec_of_error h, rfl, fun _ => ⟨rfl, rfl⟩⟩

/-! ## The first cause (R97) -/

/-- `c` is the status R97 gives the command on a block that accepts it: the first cause that applies, or OK. -/
inductive Reports (i : Instr) : Status → Prop where
  | badLength (hlen : lengthBad i) : Reports i .badLength
  | badElement (hlen : ¬ lengthBad i) (helem : elementBad i) : Reports i .badElement
  | badParam (hlen : ¬ lengthBad i) (helem : ¬ elementBad i) (hparam : paramBad i) : Reports i .badParam
  | badField (hlen : ¬ lengthBad i) (helem : ¬ elementBad i) (hfield : fieldBad i) : Reports i .badField
  | ok (hlen : ¬ lengthBad i) (helem : ¬ elementBad i) (hparam : ¬ paramBad i) (hfield : ¬ fieldBad i) : Reports i .ok

/-- No command can fail both with BAD_PARAM and with BAD_FIELD, so their order does not matter. -/
theorem not_fieldBad_of_paramBad {i : Instr} (h : paramBad i) : ¬ fieldBad i := by
  cases i with
  | deinterleave | split => exact id
  | _ => exact h.elim

theorem Reports.clauses {i : Instr} {c : Status} (h : Reports i c) :
    (lengthBad i → c = .badLength) ∧
    (¬ lengthBad i → elementBad i → c = .badElement) ∧
    (¬ lengthBad i → ¬ elementBad i → paramBad i → c = .badParam) ∧
    (¬ lengthBad i → ¬ elementBad i → fieldBad i → c = .badField) ∧
    (¬ lengthBad i → ¬ elementBad i → ¬ paramBad i → ¬ fieldBad i → c = .ok) := by
  cases h with
  | badLength hlen => simp [hlen]
  | badElement hlen helem => simp [hlen, helem]
  | badParam hlen helem hparam => simp [hlen, helem, hparam, not_fieldBad_of_paramBad hparam]
  | badField hlen helem hfield =>
    have hparam : ¬ paramBad i := fun h => not_fieldBad_of_paramBad h hfield
    simp [hlen, helem, hparam, hfield]
  | ok hlen helem hparam hfield => simp [hlen, helem, hparam, hfield]

theorem burstTypeOf_eq_none_iff {ty : Byte} : burstTypeOf ty = none ↔ 2 < ty.toNat := by
  revert ty; decide

/-! ## The checks of a command, one lemma each, and the order they run in -/

namespace Reports

section

variable {i : Instr} {r : Result}

theorem afterClosed {b : Block} (hopen : b.closed = false) (h : Reports i (statusOf r)) :
    Reports i (statusOf (unlessClosed b r)) := by
  rwa [unlessClosed_open hopen]

theorem lengthCheck {bad : Prop} [Decidable bad] (hbad : bad ↔ lengthBad i)
    (h : ¬ lengthBad i → Reports i (statusOf r)) : Reports i (statusOf (if bad then .error .badLength else r)) := by
  split
  · exact .badLength (hbad.1 ‹_›)
  · exact h (mt hbad.2 ‹_›)

theorem bitsCheck {d : List Byte} {k : Bits → Result} (hlen : ¬ lengthBad i)
    (hbad : (∃ b ∈ d, 1 < b.toNat) ↔ elementBad i) (h : ∀ v, ¬ elementBad i → Reports i (statusOf (k v))) :
    Reports i (statusOf (withBits d k)) := by
  rw [← bitsOf_eq_none_iff] at hbad
  unfold withBits
  split
  · exact .badElement hlen (hbad.1 ‹_›)
  · exact h _ (mt hbad.2 (by simp [*]))

theorem tritsCheck {d : List Byte} {k : Trits → Result} (hlen : ¬ lengthBad i)
    (hbad : (∃ b ∈ d, 2 < b.toNat) ↔ elementBad i) (h : ∀ v, ¬ elementBad i → Reports i (statusOf (k v))) :
    Reports i (statusOf (withTrits d k)) := by
  rw [← tritsOf_eq_none_iff] at hbad
  unfold withTrits
  split
  · exact .badElement hlen (hbad.1 ‹_›)
  · exact h _ (mt hbad.2 (by simp [*]))

end

theorem rxSymbol (P : Params) (sym : Byte) {b : Block} (hopen : b.closed = false) :
    Reports (.rxSymbol sym) (statusOf (rxSymbolCommand P sym b)) := by
  have hbad : bitOf sym = none ↔ elementBad (.rxSymbol sym) := bitOf_eq_none_iff sym
  refine .afterClosed hopen ?_
  split
  · exact .badElement id (hbad.1 ‹_›)
  · exact .ok id (mt hbad.2 (by simp [*])) id id

/-- A write command checks its fields and nothing else (R86). -/
theorem write {i : Instr} {w : Write} {b : Block} (hopen : b.closed = false) (hlen : ¬ lengthBad i)
    (helem : ¬ elementBad i) (hparam : ¬ paramBad i) (hfit : w.fieldsFit = true ↔ ¬ fieldBad i) :
    Reports i (statusOf (writeCommand w b)) := by
  refine .afterClosed hopen ?_
  split
  · exact .ok hlen helem hparam (hfit.1 ‹_›)
  · exact .badField hlen helem (not_not.1 (mt hfit.2 ‹_›))

theorem deinterleave (P : Params) (k a : Word16) (d : List Byte) {b : Block} (hopen : b.closed = false) :
    Reports (.deinterleave k a d) (statusOf (deinterleaveCommand P k.toNat a.toNat d b)) := by
  refine .afterClosed hopen (.bitsCheck id Iff.rfl fun v helem => ?_)
  have hbad : (decide (k.toNat = 0) || Nat.gcd a.toNat k.toNat != 1) = true ↔ paramBad (.deinterleave k a d) := by
    simp [paramBad]
  split
  · exact .badParam id helem (hbad.1 ‹_›)
  · exact .ok id helem (mt hbad.2 ‹_›) id

theorem split (P : Params) (ty : Byte) (d : List Byte) {b : Block} (hopen : b.closed = false) :
    Reports (.split ty d) (statusOf (splitCommand P ty d b)) := by
  refine .afterClosed hopen (.bitsCheck id Iff.rfl fun v helem => ?_)
  have hbad : burstTypeOf ty = none ↔ paramBad (.split ty d) := burstTypeOf_eq_none_iff
  split
  · exact .badParam id helem (hbad.1 ‹_›)
  · exact .ok id helem (mt hbad.2 (by simp [*])) id

end Reports

/-- RD_STATE and RESET never fault (R94, R111). -/
theorem resultOf_reports_of_accepted {P : Params} {i : Instr} {b : Block} (hi : acceptedWhenClosed i) :
    Reports i (statusOf (resultOf P i b)) := by
  cases i with
  | rdState | reset => exact .ok id id id id
  | _ => exact hi.elim

theorem resultOf_reports_of_open {P : Params} {i : Instr} {b : Block} (hopen : b.closed = false) :
    Reports i (statusOf (resultOf P i b)) := by
  cases i with
  | rdState | reset => exact resultOf_reports_of_accepted trivial
  | eos | tdmaInc => exact .afterClosed hopen (.ok id id id id)
  | rxSymbol sym => exact .rxSymbol P sym hopen
  | descramble | rmDecode | classify =>
    exact .afterClosed hopen (.bitsCheck id Iff.rfl fun v helem => .ok id helem id id)
  | deinterleave k a d => exact .deinterleave P k a d hopen
  | depuncture23 | crc16Check =>
    exact .afterClosed hopen (.lengthCheck (by simp [lengthBad, Config.vecMax]) fun hlen =>
      .bitsCheck hlen Iff.rfl fun v helem => .ok hlen helem id id)
  | viterbi =>
    exact .afterClosed hopen (.lengthCheck (by simp [lengthBad]) fun hlen =>
      .tritsCheck hlen Iff.rfl fun v helem => .ok hlen helem id id)
  | split ty d => exact .split P ty d hopen
  | wrCell => exact .write hopen id id id (fieldsFit_cell_iff.trans (by simp [fieldBad]))
  | wrTime => exact .write hopen id id id (fieldsFit_time_iff.trans (by simp [fieldBad]))
  | wrUsage => exact .write hopen id id id (fieldsFit_usage_iff.trans (by simp [fieldBad]))
  | wrStolen2 => exact .write hopen id id id (fieldsFit_stolen2_iff.trans (by simp [fieldBad]))
  | wrFreq | wrLch => exact .write hopen id id id ⟨fun _ => id, fun _ => rfl⟩

/-! ## The layout of the records (R43) -/

theorem u16Nat_eq_bytes (n : Nat) : u16Nat n = [BitVec.ofNat 8 (n / 256), BitVec.ofNat 8 n] := by
  have hhi : (BitVec.ofNat 16 n).extractLsb' 8 8 = BitVec.ofNat 8 (n / 256) :=
    BitVec.eq_of_toNat_eq (by simp [Nat.shiftRight_eq_div_pow]; omega)
  have hlo : (BitVec.ofNat 16 n).extractLsb' 0 8 = BitVec.ofNat 8 n :=
    BitVec.eq_of_toNat_eq (by simp)
  rw [u16Nat, u16Bytes, hhi, hlo]

theorem dlv_bytes (ch : Channel) (t : Time) (bits : Bits) :
    (Record.dlv ch t bits).bytes =
      [0xD0, ch.code] ++ t.bytes ++ [BitVec.ofNat 8 (bits.length / 256), BitVec.ofNat 8 bits.length] ++
        bits.map bitByte := by
  rw [Record.bytes, countedVec_bitsBytes, u16Nat_eq_bytes, ← List.append_assoc]
  rfl

end Sys2Proof.Machine

namespace Sys2Proof

open Machine

/-- Settles O9: a command ends in `finish`, whose fault is a response without payload on the same block. -/
theorem everyCommandAnsweredOnce : Obligations.EveryCommandAnsweredOnce := by
  intro i s
  obtain ⟨b, r, hexec, -, hfault⟩ := exec_eq_respond i s
  exact ⟨b, r, hexec, hfault⟩

/-- Settles O10: the codes and layouts by computation, the status by the checks of each command in the order it runs
them. -/
theorem statusByPriority : Obligations.StatusByPriority := by
  refine ⟨fun _ => rfl, ⟨rfl, rfl, rfl, rfl, fun t => ⟨rfl, burstTypeOf_code t⟩⟩, ⟨rfl, rfl, rfl, rfl, rfl, rfl, rfl⟩,
    ⟨rfl, rfl, rfl, rfl⟩, fun t => ⟨fun ch bits => dlv_bytes ch t bits, fun _ _ _ _ => rfl, fun _ => rfl⟩,
    ⟨rfl, rfl, rfl, rfl, rfl, rfl, rfl⟩, fun _ => rfl, fun i s => ?_⟩
  obtain ⟨b, r, hexec, hstatus, -⟩ := exec_eq_respond i s
  refine ⟨b, r, hexec, fun hclosed hi => ?_, fun haccept => ?_⟩
  · rw [hstatus, resultOf_closed hclosed hi]
    rfl
  · rw [hstatus]
    exact (haccept.elim resultOf_reports_of_open resultOf_reports_of_accepted).clauses

end Sys2Proof
end

section
/-! Reset and the hazards between commands (spec/70_reset_and_hazards.md R110, R111, R118, R119): the block after RESET,
the life of STOLEN2 over SPLIT and the branches of R52, and the TIME that the records of a burst carry. -/

open Sys2Proof.Spec

namespace Sys2Proof.Machine

@[simp] theorem Block.counted_buf_length (P : Params) (x : Bool) (b : Block) :
    (b.counted P x).buf.length = b.buf.length + 1 := List.length_append

/-- While synchronized, `per_symbol` counts every symbol down (R51, R52). -/
theorem Block.counted_cnt_of_synced (P : Params) (x : Bool) {b : Block} (hsync : b.sync = true) :
    (b.counted P x).cnt = if P.countdown = .perSymbol ∧ b.cnt > 0 then b.cnt - 1 else b.cnt := by
  simp [Block.counted_eq, hsync]

/-! ## STOLEN2 (R80, R118) -/

theorem confirmBurst_stolen2 (P : Params) (b : Block) : (confirmBurst P b).stolen2 = false :=
  processBurst_stolen2 P b.buf _

theorem coastBurst_stolen2 (P : Params) (b : Block) : (coastBurst P b).stolen2 = false := by
  have hcoasted : (coasted P b).stolen2 = false := processBurst_stolen2 P b.buf _
  rw [coastBurst_eq]
  split <;> exact hcoasted

theorem slideBuf_stolen2 (P : Params) (b : Block) : (slideBuf P b).stolen2 = b.stolen2 := by
  rw [slideBuf_eq]
  split
  · split <;> rfl
  · rfl

section

variable {P : Params} {x : Bool} {b : Block}

/-- A full buffer is processed at a boundary, and where a synchronized block coasts (R52). -/
theorem receiveSymbol_stolen2_of_processed (hfull : (b.counted P x).buf.length = 510)
    (hprocessed : boundary P (b.counted P x).buf = true ∨
      (b.counted P x).sync = true ∧ (b.counted P x).cnt % 510 = 0) :
    (receiveSymbol P x b).1.stolen2 = false := by
  cases hboundary : boundary P (b.counted P x).buf with
  | true =>
    rw [receiveSymbol_of_boundary hfull hboundary]
    exact confirmBurst_stolen2 P _
  | false =>
    rw [receiveSymbol_of_coast hfull hboundary (by simpa [hboundary] using hprocessed)]
    exact coastBurst_stolen2 P _

/-- No burst is processed while the buffer fills, nor without a boundary where there is no synchronization: then the
buffer slides (R52). -/
theorem receiveSymbol_stolen2_of_unprocessed
    (hunprocessed : (b.counted P x).buf.length < 510 ∨ b.sync = false ∧ boundary P (b.counted P x).buf = false) :
    (receiveSymbol P x b).1.stolen2 = b.stolen2 := by
  by_cases hshort : (b.counted P x).buf.length < 510
  · rw [receiveSymbol_of_short hshort]
    rfl
  · obtain ⟨hlost, hboundary⟩ := hunprocessed.resolve_left hshort
    have hslide : (receiveSymbol P x b).1 = slideBuf P (b.counted P x) := by
      have hsync : (b.counted P x).sync = false := hlost
      rw [receiveSymbol_eq_counted]
      simp only [hshort, hboundary, hsync, if_false, Bool.false_and, Bool.false_eq_true]
    rw [hslide, slideBuf_stolen2]
    rfl

end

theorem exists_burstType_code {ty : Byte} (hty : ty.toNat ≤ 2) : ∃ u : BurstType, ty = u.code := by
  have hcodes : ∀ ty : Byte, ty.toNat ≤ 2 → ty = BurstType.sb.code ∨ ty = BurstType.ndb.code ∨
      ty = BurstType.ndbSf.code := by decide
  rcases hcodes ty hty with h | h | h <;> exact ⟨_, h⟩

/-! ## The stamp of a burst's records (R79, R119) -/

/-- Every record of the list carries the TIME `t`. -/
def Stamped (t : Time) (records : List Record) : Prop := ∀ r ∈ records, recordTime r = t

@[simp] theorem stamped_nil (t : Time) : Stamped t [] := nofun

@[simp] theorem stamped_cons {t : Time} {r : Record} {records : List Record} :
    Stamped t (r :: records) ↔ recordTime r = t ∧ Stamped t records := List.forall_mem_cons

@[simp] theorem stamped_append {t : Time} {xs ys : List Record} :
    Stamped t (xs ++ ys) ↔ Stamped t xs ∧ Stamped t ys := List.forall_mem_append

theorem stamped_singleton (r : Record) : Stamped (recordTime r) [r] := by simp

theorem delivered_stamped (ch : Channel) (t : Time) (r : Bool × Bits) : Stamped t (delivered ch t r) := by
  unfold delivered
  split
  · exact stamped_singleton _
  · exact stamped_nil t

theorem secondHalfRecords_stamped (P : Params) (x : Bits) (b : Block) : Stamped b.time (secondHalfRecords P x b) := by
  unfold secondHalfRecords
  split
  · split <;> exact stamped_singleton _
  · exact delivered_stamped _ _ _

/-- From `b` to `b'` TIME is kept, and OUTQ has gained at least one record, all of them stamped with it. -/
def EmitsStamped (b b' : Block) : Prop :=
  b'.time = b.time ∧ ∃ records, b'.outq = b.outq ++ records ∧ records ≠ [] ∧ Stamped b.time records

section

variable {P : Params} (hnull : P.env = .null)

include hnull

/-- Every burst type delivers its AACH, whatever its other blocks come to (R78, R81 to R83). -/
theorem splitBlocks_emitsStamped (ty : BurstType) (v : Bits) (b : Block) : EmitsStamped b (splitBlocks P ty v b) := by
  cases ty with
  | sb =>
    rw [splitBlocks, splitSb_of_null hnull, List.append_assoc, List.append_assoc]
    exact ⟨rfl, _, rfl, by simp, by simp [delivered_stamped, recordTime]⟩
  | ndb =>
    rw [splitBlocks, splitNdb_of_null hnull, List.append_assoc]
    refine ⟨rfl, _, rfl, by simp, ?_⟩
    split <;> simp [delivered_stamped, recordTime, tchRecord]
  | ndbSf =>
    rw [splitBlocks, splitSf_of_null hnull, List.append_assoc, List.append_assoc]
    exact ⟨rfl, _, rfl, by simp, by simp [delivered_stamped, secondHalfRecords_stamped, recordTime]⟩

theorem processBurst_emitsStamped (v : Bits) (b : Block) : EmitsStamped b (processBurst P v b) := by
  cases hty : (classifyBurst P v).type with
  | none =>
    rw [processBurst_of_invalid b hty]
    exact ⟨rfl, _, rfl, by simp, stamped_singleton _⟩
  | some ty =>
    rw [processBurst_of_type b hty]
    exact splitBlocks_emitsStamped hnull ty v b

/-- TIME is advanced before the burst is processed (R52, R119). -/
theorem confirmBurst_emitsStamped (b : Block) :
    EmitsStamped { b with time := tdmaInc b.time } (confirmBurst P b) := by
  rw [confirmBurst_eq]
  exact processBurst_emitsStamped hnull b.buf _

end

end Sys2Proof.Machine

namespace Sys2Proof

open Machine

/-- Settles O31: RESET has no check before its result. -/
theorem resetCommand : Obligations.ResetCommand :=
  ⟨fun _ => rfl, fun _ => ⟨rfl, exec_of_ok rfl⟩⟩

/-- Settles O51: by whether the command processes a burst, which clears STOLEN2 whatever the burst's type. -/
theorem stolen2Lifetime : Obligations.Stolen2Lifetime := by
  refine fun s t => ⟨fun ty v hopen hty h => ?_, fun x hopen hlen hboundary h => ?_,
    fun x hopen hlen hsync hcnt h => ?_, fun x hunprocessed h => ?_⟩
  · obtain ⟨u, rfl⟩ := exists_burstType_code hty
    rw [exec_split hopen] at h
    cases h
    rfl
  · rw [exec_rxSymbol hopen] at h
    cases h
    exact receiveSymbol_stolen2_of_processed (by simp [hlen]) (.inl hboundary)
  · rw [exec_rxSymbol hopen] at h
    cases h
    rw [← Block.counted_cnt_of_synced s.params x hsync] at hcnt
    exact receiveSymbol_stolen2_of_processed (by simp [hlen]) (.inr ⟨hsync, hcnt⟩)
  · cases hclosed : s.block.closed with
    | true =>
      rw [exec_of_closed hclosed id] at h
      cases h
      rfl
    | false =>
      rw [exec_rxSymbol hclosed] at h
      cases h
      exact receiveSymbol_stolen2_of_unprocessed (hunprocessed.imp_left fun hlen => by rw [Block.counted_buf_length]; omega)

/-- Settles O52: a boundary confirms the burst, whose records carry the TIME advanced before it. -/
theorem boundaryStampsAdvancedTime : Obligations.BoundaryStampsAdvancedTime := by
  intro s t x hnull hopen hlen hboundary h
  have hconfirm : receiveSymbol s.params x s.block = (confirmBurst s.params (s.block.counted s.params x), true) :=
    receiveSymbol_of_boundary (by simp [hlen]) hboundary
  rw [exec_rxSymbol_of_eq hopen hconfirm] at h
  cases h
  exact confirmBurst_emitsStamped hnull (s.block.counted s.params x)

end Sys2Proof
end
